-- ==== Sys2Proof/Word.lean ====
section
/-! DEFINITION. The word of the register window and the numbers of the spec (00_scope.md R7 to R12).

A bus word, a register of the window and a bus element are `Word`, 64 bits (R7, BUS_BITS). The values a rule computes
with are mathematical integers (`Int`), its counts and indexes natural numbers (`Nat`), as R8 says. -/
namespace Sys2Proof

/-- One 64-bit bus word, register or element (00_scope.md R7, BUS_BITS = 64; 30_encoding.md R94). -/
abbrev Word := BitVec 64

/-- `fits_s(N, v)` of 00_scope.md R10: v is a signed N-bit value. -/
abbrev FitsS (n : Nat) (v : Int) : Prop := -(2 ^ (n - 1) : Int) ≤ v ∧ v ≤ (2 ^ (n - 1) : Int) - 1

/-- `fits_u(N, v)` of 00_scope.md R10: v is an unsigned N-bit value. -/
abbrev FitsU (n : Nat) (v : Int) : Prop := 0 ≤ v ∧ v ≤ (2 ^ n : Int) - 1

end Sys2Proof
end

