-- ==== Sys2Proof/Syntax.lean ====
section
/-! DEFINITION. What the outside can ask of the block: the eleven commands of 30_encoding.md R90, one host access of
20_memory.md R72, and one turn of a run (40_engine.md R120). -/
namespace Sys2Proof

/-- The commands, one constructor per row of spec/opcode_table.json (30_encoding.md R90). No command names an operand
(10_state.md R32): its operands are the elements on the bus and, for RLEDEC, LEN. -/
inductive Instr where
  /-- CLR, engine soft reset (40_engine.md R128). -/
  | clr
  /-- VPACK16, varint pack, 16-bit variant (41_varint.md R155). -/
  | vpack16
  /-- VPACK32, varint pack, 32-bit variant (41_varint.md R156). -/
  | vpack32
  /-- VUNPACK16, varint unpack, 16-bit variant (41_varint.md R157). -/
  | vunpack16
  /-- VUNPACK32, varint unpack, 32-bit variant (41_varint.md R158). -/
  | vunpack32
  /-- DPACK, delta pack (42_delta.md R172). -/
  | dpack
  /-- DUNPACK, delta unpack (42_delta.md R173). -/
  | dunpack
  /-- RLEENC, sparse run-length encode (43_rle.md R188). -/
  | rleenc
  /-- RLEDEC, sparse run-length decode (43_rle.md R196). -/
  | rledec
  /-- QSPLIT, split and quantize (44_segmenter.md R212). -/
  | qsplit
  /-- QJOIN, join and dequantize (44_segmenter.md R218). -/
  | qjoin
  deriving DecidableEq, Repr

/-- The direction of a host access. -/
inductive Dir where
  | read
  | write
  deriving DecidableEq, Repr

/-- One host access as it stands on the bus: its direction, its width in bits, its byte offset in the register window
and the data of a write (20_memory.md R72; the data of a read is not looked at). A width other than 64, an offset that
is not a multiple of 8 and an offset of 0x100 or more can be written down here; `Access.WellFormed` refuses them. -/
structure Access where
  dir : Dir
  width : Nat
  offset : Nat
  data : Word
  deriving DecidableEq, Repr

/-- A 64-bit write of v at a byte offset: `BusWrite(off, v)` of 00_scope.md R15. -/
def Access.write64 (off : Nat) (v : Word) : Access := ⟨.write, 64, off, v⟩

/-- A 64-bit read at a byte offset: `BusRead(off)` of 00_scope.md R15. -/
def Access.read64 (off : Nat) : Access := ⟨.read, 64, off, 0⟩

/-- One turn of a run. 40_engine.md R120: a run is any interleaving of host steps and engine steps;
70_reset_and_hazards.md R260: reset is one atomic step that may occur at any point. -/
inductive Turn where
  /-- The host makes one access. -/
  | access (a : Access)
  /-- The engine is given the turn: it takes its enabled step, if one is enabled. -/
  | engine
  /-- The platform resets the block. -/
  | reset
  deriving DecidableEq, Repr

end Sys2Proof
end

