-- ==== Sys2Proof/Config.lean ====
section
/-! DEFINITION. What is fixed when a block is built: the constants of 00_scope.md R6 and the named parameters of
00_scope.md R7. R52 says that a model takes the parameters as a configuration record; they are no register of the block.
With them the one free value of the model: what the environment does (40_engine.md R120). -/
namespace Sys2Proof

/-- DELTA_POLICY of 00_scope.md R7: what DPACK and DUNPACK do with a difference or prefix sum outside int16. -/
inductive DeltaPolicy where
  | fault
  | wrap16
  deriving DecidableEq, Repr

/-- ROUND_TIES of 00_scope.md R7: how QSPLIT rounds a value exactly halfway between two integers. -/
inductive RoundTies where
  | even
  | away
  deriving DecidableEq, Repr

/-- TIME_POLICY of 00_scope.md R7: what QSPLIT does with a time_delta outside int32. -/
inductive TimePolicy where
  | saturate
  | fault
  deriving DecidableEq, Repr

/-- The named parameters of 00_scope.md R7 and 20_memory.md R71. Every rule holds for every allowed value
(R52: configuration, not state of the block); no step changes one. -/
structure Config where
  /-- IN_DEPTH, capacity of the input FIFO in elements, at least 1. -/
  inDepth : Nat
  /-- OUT_DEPTH, capacity of the output FIFO in elements, at least 1. -/
  outDepth : Nat
  deltaPolicy : DeltaPolicy
  roundTies : RoundTies
  timePolicy : TimePolicy
  /-- WINDOW_BASE of 20_memory.md R71: where the platform puts the window. No rule of the block depends on it. -/
  windowBase : Nat
  deriving DecidableEq, Repr

/-- The parameters `State.reset` carries: the spec's defaults for the three policies (00_scope.md R7).
DESIGN CHOICE (log entry 2): the spec leaves both depths and the base open; the depths are those of the test vectors
(95_test_vectors.md section 3, 4 and 4), the base 0. Unsafe for a statement that rests on these values; none does. -/
def Config.standard : Config where
  inDepth := 4
  outDepth := 4
  deltaPolicy := .fault
  roundTies := .even
  timePolicy := .saturate
  windowBase := 0

/-- What the environment does between the engine turns it must leave the engine: the n-th list is the turns that happen
before the engine's next due turn. 40_engine.md R120 leaves the interleaving free, so this is a FREE VALUE (DESIGN CHOICE
of its form, log entry 1): it has no body, and nothing can be proved of it. Each list is finite and an engine turn follows
it, which is R120's weak fairness; there is a list for every n, so the host may act for ever. -/
opaque Config.environment : Nat → List Turn

/-- ESC of 00_scope.md R6, the byte pattern 0x80. A constant, not state (10_state.md R49). -/
def escByte : Nat := 0x80

/-- LIT_MIN of 00_scope.md R6. -/
def litMin : Int := -127

/-- LIT_MAX of 00_scope.md R6. -/
def litMax : Int := 127

/-- SCALE of 00_scope.md R6, the position quantization factor. -/
def scale : Int := 16

/-- POS_MIN of 00_scope.md R6. -/
def posMin : Int := -32768

/-- POS_MAX of 00_scope.md R6. -/
def posMax : Int := 32767

/-- MAX_EXP of 00_scope.md R7, the largest decimal exponent of a position field. -/
def maxExp : Int := 18

/-- The largest value of a COUNT_BITS counter, `2^COUNT_BITS - 1` with COUNT_BITS = 64 (00_scope.md R7). -/
def countMax : Word := BitVec.allOnes 64

/-- The length of the register window in bytes (10_state.md R34). -/
def windowBytes : Nat := 0x100

end Sys2Proof
end

