-- ==== Sys2Proof/Machine/State.lean ====
section
/-! DEFINITION. The state of one block (10_state.md R30) as plain data, the reasons a step can stop, and the state after
reset (10_state.md R50). Beside the fourteen components of R30 the state carries four fields of the model's own: the
parameters (R52), the turns next to come, how often the environment has been asked for more, and the values host reads
have returned. -/
namespace Sys2Proof.Machine

/-- PHASE of 10_state.md R33. -/
inductive Phase where
  | idle
  | run
  | done
  | err
  deriving DecidableEq, Repr

/-- The error kinds of 60_exceptions.md R230, codes 1 to 7; no other is ever produced. -/
inductive ErrKind where
  | malformedInput
  | channelLengthMismatch
  | corruptContainer
  | rangeOverflow
  | emptyInput
  | illegalCommand
  | protocolError
  deriving DecidableEq, Repr

/-- The varint decoder's registers ESC, K and ACC (10_state.md R48, record VD). -/
structure VDec where
  /-- ESC: the decoder is inside an escape. -/
  esc : Bool
  /-- K: payload bytes read so far, a natural in [0, 3]. -/
  k : Nat
  /-- ACC: their unsigned sum, a natural in [0, 2^24). -/
  acc : Nat
  deriving DecidableEq, Repr

/-- RS of the run-length encoder (10_state.md R48; 43_rle.md R186). -/
inductive RunState where
  | noRun
  | inRun
  deriving DecidableEq, Repr

/-- The run-length encoder's registers (10_state.md R48, record RE). -/
structure REnc where
  rs : RunState
  /-- CUR: the value of the active run, a natural in [0, 255]. -/
  cur : Nat
  /-- RLEN: its length so far, a COUNT_BITS counter. -/
  rlen : Nat
  /-- GAP: its gap, a COUNT_BITS counter. -/
  gap : Nat
  /-- MARK: the index one past the previous run's last element, a COUNT_BITS counter. -/
  mark : Nat
  deriving DecidableEq, Repr

/-- The run-length decoder's registers (10_state.md R48, record RD). -/
structure RDec where
  /-- WCNT: words of the current triple received so far, a natural in [0, 2]. -/
  wcnt : Nat
  /-- G: the gap word, a natural in [0, 65535]. -/
  g : Nat
  /-- L: the run_length word, a natural in [0, 65535]. -/
  l : Nat
  /-- OUTN: bytes the complete triples have produced, a COUNT_BITS counter. -/
  outn : Nat
  /-- N: the expected length, 64-bit unsigned, LEN_S. -/
  n : Nat
  deriving DecidableEq, Repr

/-- QSPLIT's field words F[0..4] (10_state.md R48, record QS), each a 64-bit signed word. -/
structure QSFields where
  t : Int
  xm : Int
  xe : Int
  ym : Int
  ye : Int
  deriving DecidableEq, Repr

/-- QJOIN's field words F[0..2] (10_state.md R48, record QJ), each a 64-bit signed word. -/
structure QJFields where
  t : Int
  x : Int
  y : Int
  deriving DecidableEq, Repr

/-- DP, the datapath registers: exactly one of the records of 10_state.md R48. Their registers are naturals and integers;
that they stay inside R48's widths is in the invariant `Inv` (log entry 9). -/
inductive Datapath where
  /-- VP, of VPACK16 and VPACK32: no register. -/
  | vp
  /-- VD, of VUNPACK16 and VUNPACK32. -/
  | vd (v : VDec)
  /-- DP, of DPACK: PREV, signed 16-bit. -/
  | dp (prev : Int)
  /-- DU, of DUNPACK: ESC, K, ACC as in VD, and SUM, signed 16-bit. -/
  | du (v : VDec) (sum : Int)
  /-- RE, of RLEENC. -/
  | re (r : REnc)
  /-- RD, of RLEDEC. -/
  | rd (r : RDec)
  /-- QS, of QSPLIT: FCNT, a natural in [0, 6], and F. -/
  | qs (fcnt : Nat) (f : QSFields)
  /-- QJ, of QJOIN: FCNT, a natural in [0, 3], and F. -/
  | qj (fcnt : Nat) (f : QJFields)
  deriving DecidableEq, Repr

/-- What one host read returned: the offset read and the 64-bit value (20_memory.md R78). -/
structure Response where
  offset : Nat
  data : Word
  deriving DecidableEq, Repr

/-- The state of one block instance: the components of 10_state.md R30 in the order of its table, then the model's
own four fields. -/
structure State where
  /-- PHASE (R33). -/
  phase : Phase
  /-- OPREG, the opcode of the running or last started command (R47). -/
  opreg : BitVec 8
  /-- LEN, the operand register (R38). -/
  len : Word
  /-- LEN_S, the copy of LEN taken at command start (R47). -/
  lenS : Word
  /-- INFIFO, oldest element first (R45). -/
  inFifo : List Word
  /-- OUTFIFO, oldest element first (R45). -/
  outFifo : List Word
  /-- PENDING, oldest element first, unbounded (R44). -/
  pending : List Word
  /-- END: end of input has been signalled (R46). -/
  endFlag : Bool
  /-- FIN: the finish step has run (R46). -/
  fin : Bool
  /-- IN_COUNT (R42). -/
  inCount : Word
  /-- OUT_COUNT (R42). -/
  outCount : Word
  /-- ERRCODE; none is the code 0, NONE (R43; log entry 8). -/
  errcode : Option ErrKind
  /-- ERR_INDEX (R43). -/
  errIndex : Word
  /-- DP; none where it holds no meaningful value, as R48 allows (log entry 5). -/
  dp : Option Datapath
  /-- MODEL'S OWN (DESIGN CHOICE, log entry 2): the parameters of 00_scope.md R7, carried and never changed (R52). -/
  cfg : Config
  /-- MODEL'S OWN (DESIGN CHOICE, log entry 1): the turns next to come, first one first. What the host and the platform
  will do and where the engine steps fall between is the environment's choice (40_engine.md R120); when this list has
  run out the next turn is the engine's and `Config.environment` gives the list after it. -/
  agenda : List Turn
  /-- MODEL'S OWN (DESIGN CHOICE, log entry 1): how many lists have been taken from `Config.environment`. -/
  round : Nat
  /-- MODEL'S OWN (DESIGN CHOICE, log entry 3): what the host's reads have returned, oldest first. The block never reads it. -/
  reads : List Response
  deriving DecidableEq, Repr

/-- Why the machine stops with a fault. -/
inductive Fault where
  /-- Raised by an engine step in a state where PHASE is RUN and OPREG is no command's opcode or DP is not the record
  of that command. 40_engine.md R134 says that no run reaches such a state ("OPREG can hold no other value while
  PHASE = RUN"), so no rule gives the step a meaning (DESIGN CHOICE, log entry 6). Safe: the model stops where the block cannot be. -/
  | datapathMismatch
  deriving DecidableEq, Repr

/-- Why the model has no step. -/
inductive Refusal where
  /-- An instruction without a meaning in this model, by its mnemonic. Raised by no arm: every command has its meaning. -/
  | notModelled (mnemonic : String)
  /-- A host access narrower or wider than 64 bits: 20_memory.md R72 has a model refuse it by name (log entry 7). Safe. -/
  | accessWidth
  /-- A host access at an offset that is not a multiple of 8: 20_memory.md R72 has a model refuse it by name (log entry 7). Safe. -/
  | accessMisaligned
  /-- A host access at an offset of 0x100 or more: 20_memory.md R72 has a model refuse it by name (log entry 7). Safe. -/
  | accessOutsideWindow
  deriving DecidableEq, Repr

/-- The state hardware reset leaves (10_state.md R50), for a block built with the parameters c. DP is none (R48, R50:
no meaningful value, unobservable). No turn is listed, no list has been taken from
the environment and no read has returned (log entries 1 and 3). -/
def State.resetWith (c : Config) : State where
  phase := .idle
  opreg := 0
  len := 0
  lenS := 0
  inFifo := []
  outFifo := []
  pending := []
  endFlag := false
  fin := false
  inCount := 0
  outCount := 0
  errcode := none
  errIndex := 0
  dp := none
  cfg := c
  agenda := []
  round := 0
  reads := []

/-- The machine right after reset (10_state.md R50), with the parameters of `Config.standard`. -/
def State.reset : State := State.resetWith Config.standard

end Sys2Proof.Machine
end

