-- ==== Sys2Proof/Machine/Flags.lean ====
section
/-! DEFINITION. The STATUS register: its fields, each computed from the state at the moment of the read (10_state.md
R36), and the codes of PHASE (R33) and ERRCODE (60_exceptions.md R230). The block has no other flag (R51). -/
namespace Sys2Proof.Machine

/-- The code of PHASE (10_state.md R33). -/
def Phase.code : Phase → BitVec 2
  | .idle => 0
  | .run => 1
  | .done => 2
  | .err => 3

/-- The numeric error codes (60_exceptions.md R230). -/
def ErrKind.code : ErrKind → BitVec 4
  | .malformedInput => 1
  | .channelLengthMismatch => 2
  | .corruptContainer => 3
  | .rangeOverflow => 4
  | .emptyInput => 5
  | .illegalCommand => 6
  | .protocolError => 7

/-- The 4-bit field ERRCODE; 0 is NONE (10_state.md R43, 60_exceptions.md R230). -/
def errField : Option ErrKind → BitVec 4
  | none => 0
  | some k => k.code

/-- OUT_VALID: OUTFIFO holds at least one element (10_state.md R36). -/
def outValid (s : State) : Bool := decide (s.outFifo ≠ [])

/-- IN_READY: PHASE = RUN, END = 0 and INFIFO holds fewer than IN_DEPTH elements (10_state.md R36). -/
def inReady (s : State) : Bool := decide (s.phase = .run ∧ s.endFlag = false ∧ s.inFifo.length < s.cfg.inDepth)

/-- STATUS, the fields of 10_state.md R36 from bit 63 down to bit 0:
[63:24] 0, [23:16] OP, [15:12] 0, [11:8] ERRCODE, [7:6] 0, [5] FIN, [4] IN_READY, [3] OUT_VALID, [2] END, [1:0] PHASE. -/
def statusWord (s : State) : Word :=
  (0#40) ++ s.opreg ++ (0#4) ++ errField s.errcode ++ (0#2) ++ BitVec.ofBool s.fin ++ BitVec.ofBool (inReady s) ++
    BitVec.ofBool (outValid s) ++ BitVec.ofBool s.endFlag ++ s.phase.code

end Sys2Proof.Machine
end

