-- ==== Sys2Proof/Machine/Ops.lean ====
section
/-! DEFINITION. The named operations over the state: error entry (60_exceptions.md R242), the return from it by CLR
(40_engine.md R128) or reset (70_reset_and_hazards.md R260), the start of a command (40_engine.md R124), and the reads and
writes of the register window. The block has no addressable memory (20_memory.md R70). -/
namespace Sys2Proof.Machine

/-- The outcome of a step of this machine. -/
abbrev Result := Host.Outcome State Fault Refusal

/-- `raise E(idx)`, error entry (60_exceptions.md R242): the one exception of the block. OPREG, LEN, LEN_S, END, FIN,
IN_COUNT and OUT_COUNT keep their values. Applied to the state before the step, so that the step that raises has no
other effect (00_scope.md R15). -/
def raise (k : ErrKind) (idx : Word) (s : State) : State :=
  { s with
    phase := .err
    errcode := some k
    errIndex := idx
    inFifo := []
    outFifo := []
    pending := []
    dp := none }

/-- `clear()`, the engine soft reset of 40_engine.md R128: the return from ERR (60_exceptions.md R245), and the abort of
a command in any other phase. LEN is not changed. -/
def clear (s : State) : State :=
  { s with
    phase := .idle
    opreg := 0
    lenS := 0
    inFifo := []
    outFifo := []
    pending := []
    endFlag := false
    fin := false
    inCount := 0
    outCount := 0
    errcode := none
    errIndex := 0
    dp := none }

/-- Hardware reset (70_reset_and_hazards.md R260) as one atomic step: the reset table of 10_state.md R50. The parameters
of the block, the turns to come and what the host has read are not the block's state and stay (log entry 10). -/
def hardReset (s : State) : State :=
  { State.resetWith s.cfg with agenda := s.agenda, round := s.round, reads := s.reads }

/-- `start(op)` of 40_engine.md R124, with the command's own init function (00_scope.md R16). -/
def start (op : BitVec 8) (init : Word → Datapath) (s : State) : State :=
  { s with
    phase := .run
    opreg := op
    lenS := s.len
    inFifo := []
    outFifo := []
    pending := []
    endFlag := false
    fin := false
    inCount := 0
    outCount := 0
    errcode := none
    errIndex := 0
    dp := some (init s.len) }

/-- The write of an assigned command word other than CLR (40_engine.md R123): ignored in ERR, ProtocolError while a
command runs or its outputs are not all read, else the command starts. -/
def startCommand (op : BitVec 8) (init : Word → Datapath) (s : State) : Result :=
  if s.phase = .err then .next s
  else if s.phase = .run ∨ (s.phase = .done ∧ s.outFifo ≠ []) then .next (raise .protocolError s.inCount s)
  else .next (start op init s)

/-- A host read returned v at a byte offset. -/
def respond (off : Nat) (v : Word) (s : State) : State :=
  { s with reads := s.reads ++ [⟨off, v⟩] }

/-- A write to LEN, in every phase (40_engine.md R129). -/
def writeLen (w : Word) (s : State) : State := { s with len := w }

/-- A write to IN_DATA (40_engine.md R125). The element is stored as written, all 64 bits. -/
def writeInData (w : Word) (s : State) : State :=
  if s.phase = .err then s
  else if s.phase ≠ .run ∨ s.endFlag = true ∨ s.inFifo.length = s.cfg.inDepth then raise .protocolError s.inCount s
  else { s with inFifo := s.inFifo ++ [w] }

/-- A write to IN_END, of any value (40_engine.md R126). -/
def writeInEnd (s : State) : State :=
  if s.phase = .err then s
  else if s.phase ≠ .run ∨ s.endFlag = true then raise .protocolError s.inCount s
  else { s with endFlag := true }

/-- A read of OUT_DATA (40_engine.md R127): it pops OUTFIFO; with OUTFIFO empty it returns 0, and in RUN and DONE it
raises ProtocolError. -/
def readOutData (s : State) : State :=
  match s.outFifo with
  | w :: rest => respond 0x28 w { s with outFifo := rest }
  | [] =>
    if s.phase = .idle ∨ s.phase = .err then respond 0x28 0 s
    else respond 0x28 0 (raise .protocolError s.inCount s)

/-- The value at a register's offset as a read without a pop sees it (10_state.md R34, 20_memory.md R73): CMD, IN_DATA,
IN_END and the reserved offsets give 0; OUT_DATA shows the head of OUTFIFO, or 0. -/
def registerValue (off : Nat) (s : State) : Word :=
  match off with
  | 0x08 => statusWord s
  | 0x10 => s.len
  | 0x28 => s.outFifo.headD 0
  | 0x30 => s.inCount
  | 0x38 => s.outCount
  | 0x40 => s.errIndex
  | _ => 0

/-- The byte of the register window at a byte offset: offset `8k + j` holds bits `[8j+7 : 8j]` of the register at `8k`
(20_memory.md R76, little-endian). No access of the block is one byte wide (R72). -/
def windowByte (off : Nat) (s : State) : BitVec 8 :=
  (registerValue (off / 8 * 8) s).extractLsb' (8 * (off % 8)) 8

/-- The byte offset in the window of a platform address, for the base the platform chose (20_memory.md R71). -/
def offsetOf (c : Config) (addr : Nat) : Option Nat :=
  if c.windowBase ≤ addr ∧ addr < c.windowBase + windowBytes then some (addr - c.windowBase) else none

/-- What a consume or a finish function of a command answers (00_scope.md R16): a result or an error. `mismatch`: DP is
not the command's record, which no run reaches (40_engine.md R134). -/
inductive Reply (α : Type) where
  | ok (a : α)
  | error (k : ErrKind)
  | mismatch
  deriving DecidableEq, Repr

/-- Sequencing inside one consume or finish step: the first check that fails is raised (60_exceptions.md R240). -/
def check {α β : Type} (r : Except ErrKind α) (f : α → Reply β) : Reply β :=
  match r with
  | .ok a => f a
  | .error k => .error k

end Sys2Proof.Machine
end

