-- ==== Sys2Proof/Machine/Control.lean ====
section
/-! DEFINITION. Engine control: the meaning of CLR (40_engine.md R128). -/
namespace Sys2Proof.Machine

/-- CLR (40_engine.md R128): `clear()` at the CMD write itself, accepted in every phase. In ERR it is the way out
(60_exceptions.md R245); LEN is not changed; it raises nothing. -/
def execClr (s : State) : Result := .next (clear s)

end Sys2Proof.Machine
end

