-- ==== Sys2Proof/WellFormed.lean ====
section
/-! DEFINITION. The checks on what stands outside the state: a host access, a configuration, a command. -/
namespace Sys2Proof

/-- A host access the interface defines (20_memory.md R72): 64 bits wide, at an offset that is a multiple of 8 inside
the window of 0x100 bytes. -/
abbrev Access.WellFormed (a : Access) : Prop :=
  a.width = 64 ∧ a.offset % 8 = 0 ∧ a.offset < windowBytes

/-- The allowed parameters of 00_scope.md R7: both FIFO depths are at least 1. -/
abbrev Config.WellFormed (c : Config) : Prop :=
  1 ≤ c.inDepth ∧ 1 ≤ c.outDepth

/-- Every command is well formed: a command word has one field, OP, and no operand field (30_encoding.md R90, R93), so
no term of `Instr` is ill formed. The check stands here so that statements about "every well-formed command" have it. -/
abbrev Instr.WellFormed (i : Instr) : Prop :=
  i ∈ [Instr.clr, .vpack16, .vpack32, .vunpack16, .vunpack32, .dpack, .dunpack, .rleenc, .rledec, .qsplit, .qjoin]

end Sys2Proof
end

