-- ==== Sys2Proof/Decode.lean ====
section
/-! DEFINITION. The command word (30_encoding.md R90 to R93): decoding of any 64-bit word, total, rejecting by name,
and the encoder. Each command is exactly one 64-bit word (R93). -/
namespace Sys2Proof

/-- Why a word written to CMD is no command (30_encoding.md R92). Either way 40_engine.md R123 raises IllegalCommand. -/
inductive DecodeError where
  /-- A bit of [63:8] is set. -/
  | reservedBits
  /-- The OP field is not in the table of R90. -/
  | unassignedOp
  deriving DecidableEq, Repr

/-- The OP field of a command word, bits [7:0] (10_state.md R35). -/
def opField (w : Word) : BitVec 8 := w.extractLsb' 0 8

/-- The reserved field of a command word, bits [63:8] (10_state.md R35). -/
def reservedField (w : Word) : BitVec 56 := w.extractLsb' 8 56

/-- The table of 30_encoding.md R90, read from the opcode: a decoder selects by the whole OP value (R91). -/
def decodeOp (op : BitVec 8) : Option Instr :=
  match op.toNat with
  | 0x00 => some .clr
  | 0x10 => some .vpack16
  | 0x11 => some .vpack32
  | 0x12 => some .vunpack16
  | 0x13 => some .vunpack32
  | 0x20 => some .dpack
  | 0x21 => some .dunpack
  | 0x30 => some .rleenc
  | 0x31 => some .rledec
  | 0x40 => some .qsplit
  | 0x41 => some .qjoin
  | _ => none

/-- The command a word written to CMD selects (30_encoding.md R90, R92): reserved bits are looked at first, then OP. -/
def decode (w : Word) : Except DecodeError Instr :=
  if reservedField w ≠ 0 then .error .reservedBits
  else match decodeOp (opField w) with
    | some i => .ok i
    | none => .error .unassignedOp

/-- The opcode of a command, the OP column of 30_encoding.md R90. -/
def opcode : Instr → BitVec 8
  | .clr => 0x00
  | .vpack16 => 0x10
  | .vpack32 => 0x11
  | .vunpack16 => 0x12
  | .vunpack32 => 0x13
  | .dpack => 0x20
  | .dunpack => 0x21
  | .rleenc => 0x30
  | .rledec => 0x31
  | .qsplit => 0x40
  | .qjoin => 0x41

/-- The command word of a command, `zext_64(OP)` (30_encoding.md R90). -/
def encode (i : Instr) : Word := (opcode i).setWidth 64

/-- The instruction the decoder reads from a row of spec/opcode_table.json whose bits are w: the first nbits bits of w
as one word written to CMD, every bit above them 0. -/
def decodeTableWord (nbits w : Nat) : Option Instr :=
  match decode (BitVec.ofNat 64 (w % 2 ^ nbits)) with
  | .ok i => some i
  | .error _ => none

end Sys2Proof
end

