-- ==== Sys2Proof/Machine/Arith.lean ====
section
/-! DEFINITION. The integer arithmetic the rules share (00_scope.md R9 to R13): slices, bytes, sign extension,
wrapping, shifts, clamping and rounding. -/
namespace Sys2Proof.Machine

/-- `v >> k` of 00_scope.md R11, the arithmetic right shift `floor(v / 2^k)`. -/
def asr (v : Int) (k : Nat) : Int := v / (2 ^ k : Int)

/-- `v[hi:lo]` of 00_scope.md R9, `floor(v / 2^lo) mod 2^(hi-lo+1)`, for any integer v. -/
def slice (v : Int) (hi lo : Nat) : Nat := (asr v lo % (2 ^ (hi - lo + 1) : Int)).toNat

/-- `byte(v)` of 00_scope.md R10, `v mod 256` as a natural number. -/
def byte (v : Int) : Nat := (v % 256).toNat

/-- `sext_N(b)` of 00_scope.md R10. -/
def sext (n : Nat) (b : Nat) : Int := if b < 2 ^ (n - 1) then (b : Int) else (b : Int) - (2 ^ n : Int)

/-- `s8(b)` of 00_scope.md R10. -/
def s8 (b : Nat) : Int := sext 8 b

/-- `wrap_N(v)` of 00_scope.md R10, the signed N-bit value congruent to v. -/
def wrap (n : Nat) (v : Int) : Int := sext n (v % (2 ^ n : Int)).toNat

/-- `clamp(lo, hi, v)` of 00_scope.md R13. -/
def clamp (lo hi v : Int) : Int := if v < lo then lo else if hi < v then hi else v

/-- `round_ties(num / den)` of 00_scope.md R13 for `den > 0`, by the integer arithmetic of 44_segmenter.md R206. -/
def roundTies (ties : RoundTies) (num den : Int) : Int :=
  let q0 := num / den
  let rem := num - q0 * den
  if 2 * rem < den then q0
  else if den < 2 * rem then q0 + 1
  else match ties with
    | .even => if q0 % 2 = 0 then q0 else q0 + 1
    | .away => if 0 < num then q0 + 1 else q0

end Sys2Proof.Machine
end

