-- ==== Sys2Proof/Machine/Operands.lean ====
section
/-! DEFINITION. The operand forms of the block: the elements on the bus and their classes (30_encoding.md R94 to R99).
A class check answers the value an element carries, or RangeOverflow (R94). -/
namespace Sys2Proof.Machine

/-- The signed value an input element is read as, `sext_64(w)` (30_encoding.md R94). -/
def elementValue (w : Word) : Int := w.toInt

/-- The word an output element is written as, `e mod 2^64` (30_encoding.md R94). -/
def elementWord (e : Int) : Word := BitVec.ofInt 64 e

/-- Byte element (30_encoding.md R96): e in [-128, 255]; the byte it carries is `byte(e)`. -/
def checkByte (e : Int) : Except ErrKind Nat :=
  if -128 ≤ e ∧ e ≤ 255 then .ok (byte e) else .error .rangeOverflow

/-- Signed integer element of width N, 16 or 32 (30_encoding.md R97). -/
def checkSigned (n : Nat) (e : Int) : Except ErrKind Int :=
  if FitsS n e then .ok e else .error .rangeOverflow

/-- u16 word element (30_encoding.md R98). -/
def checkU16 (e : Int) : Except ErrKind Nat :=
  if FitsU 16 e then .ok e.toNat else .error .rangeOverflow

/-- State byte element (30_encoding.md R99, and S of R110): e in [0, 255]. -/
def checkState (e : Int) : Except ErrKind Nat :=
  if 0 ≤ e ∧ e ≤ 255 then .ok e.toNat else .error .rangeOverflow

/-- Decimal exponent (30_encoding.md R106, R108): e in [0, MAX_EXP], else MalformedInput. -/
def checkExponent (e : Int) : Except ErrKind Int :=
  if 0 ≤ e ∧ e ≤ maxExp then .ok e else .error .malformedInput

/-- Output elements that are byte patterns, u16 words or state bytes: `zext_64` of each (30_encoding.md R96, R98, R99). -/
def naturals (ns : List Nat) : List Int := ns.map Int.ofNat

end Sys2Proof.Machine
end

