-- ==== Sys2Proof/Machine/Varint.lean ====
section
/-! DEFINITION. The varint byte packer (41_varint.md): the code and its decoder (R150 to R153), then for each of
VPACK16, VPACK32, VUNPACK16 and VUNPACK32 its command write and its init, consume and finish functions. -/
namespace Sys2Proof.Machine

/-- P, the number of payload bytes after the escape byte: W / 8 (41_varint.md R150, 90_conflicts.md C1). -/
def payloadBytes (w : Nat) : Nat := w / 8

/-- `vcode(W, v)` of 41_varint.md R150: one literal byte, or 0x80 and the payload, least significant byte first. -/
def vcode (w : Nat) (v : Int) : List Nat :=
  if litMin ≤ v ∧ v ≤ litMax then [byte v]
  else escByte :: (List.range (payloadBytes w)).map (fun k => byte (asr v (8 * k)))

/-- `vdec_init` of 41_varint.md R152. -/
def vdecInit : VDec := ⟨false, 0, 0⟩

/-- `vdec_step` of 41_varint.md R151: the next registers, and the value the byte b completes, if it completes one. -/
def vdecStep (w : Nat) (r : VDec) (b : Nat) : VDec × Option Int :=
  if r.esc = false then
    if b = escByte then (⟨true, 0, 0⟩, none) else (⟨false, 0, 0⟩, some (s8 b))
  else if r.k < payloadBytes w - 1 then (⟨true, r.k + 1, r.acc + b * 2 ^ (8 * r.k)⟩, none)
  else (⟨false, 0, 0⟩, some ((r.acc : Int) + s8 b * (2 ^ (8 * r.k) : Int)))

/-- The output of a decode step: the completed value, or nothing. -/
def decoded (v : Option Int) : List Int := v.toList

/-- consume of VPACK16 and VPACK32 at width w (41_varint.md R155, R156). -/
def packElement (w : Nat) (e : Int) : Reply (Datapath × List Int) :=
  check (checkSigned w e) fun v => .ok (.vp, naturals (vcode w v))

/-- consume of VUNPACK16 and VUNPACK32 at width w (41_varint.md R157, R158). -/
def unpackByte (w : Nat) (r : VDec) (e : Int) : Reply (Datapath × List Int) :=
  check (checkByte e) fun b =>
    let (r', v) := vdecStep w r b
    .ok (.vd r', decoded v)

/-- The end-of-stream check of 41_varint.md R153. -/
def atCodeBoundary (r : VDec) : Reply (List Int) :=
  if r.esc = true then .error .corruptContainer else .ok []

/-- The command write of VPACK16 (41_varint.md R155; 40_engine.md R123, R124). -/
def execVpack16 (s : State) : Result := startCommand (opcode .vpack16) (fun _ => .vp) s

/-- consume of VPACK16 (41_varint.md R155). -/
def vpack16Consume (d : Datapath) (e : Int) : Reply (Datapath × List Int) :=
  match d with
  | .vp => packElement 16 e
  | _ => .mismatch

/-- finish of VPACK16 (41_varint.md R155). -/
def vpack16Finish (d : Datapath) : Reply (List Int) :=
  match d with
  | .vp => .ok []
  | _ => .mismatch

/-- The command write of VPACK32 (41_varint.md R156; 40_engine.md R123, R124). -/
def execVpack32 (s : State) : Result := startCommand (opcode .vpack32) (fun _ => .vp) s

/-- consume of VPACK32 (41_varint.md R156). -/
def vpack32Consume (d : Datapath) (e : Int) : Reply (Datapath × List Int) :=
  match d with
  | .vp => packElement 32 e
  | _ => .mismatch

/-- finish of VPACK32 (41_varint.md R156). -/
def vpack32Finish (d : Datapath) : Reply (List Int) :=
  match d with
  | .vp => .ok []
  | _ => .mismatch

/-- The command write of VUNPACK16 (41_varint.md R157; 40_engine.md R123, R124). -/
def execVunpack16 (s : State) : Result := startCommand (opcode .vunpack16) (fun _ => .vd vdecInit) s

/-- consume of VUNPACK16 (41_varint.md R157). -/
def vunpack16Consume (d : Datapath) (e : Int) : Reply (Datapath × List Int) :=
  match d with
  | .vd r => unpackByte 16 r e
  | _ => .mismatch

/-- finish of VUNPACK16 (41_varint.md R157). -/
def vunpack16Finish (d : Datapath) : Reply (List Int) :=
  match d with
  | .vd r => atCodeBoundary r
  | _ => .mismatch

/-- The command write of VUNPACK32 (41_varint.md R158; 40_engine.md R123, R124). -/
def execVunpack32 (s : State) : Result := startCommand (opcode .vunpack32) (fun _ => .vd vdecInit) s

/-- consume of VUNPACK32 (41_varint.md R158). -/
def vunpack32Consume (d : Datapath) (e : Int) : Reply (Datapath × List Int) :=
  match d with
  | .vd r => unpackByte 32 r e
  | _ => .mismatch

/-- finish of VUNPACK32 (41_varint.md R158). -/
def vunpack32Finish (d : Datapath) : Reply (List Int) :=
  match d with
  | .vd r => atCodeBoundary r
  | _ => .mismatch

end Sys2Proof.Machine
end

