-- ==== Sys2Proof/Machine/Delta.lean ====
section
/-! DEFINITION. The delta channel coder (42_delta.md): the range policy (R170) and the commands DPACK and DUNPACK. -/
namespace Sys2Proof.Machine

/-- `dfit(d)` of 42_delta.md R170: a difference or prefix sum brought into int16 by the parameter DELTA_POLICY. -/
def dfit (p : DeltaPolicy) (d : Int) : Except ErrKind Int :=
  if FitsS 16 d then .ok d
  else match p with
    | .wrap16 => .ok (wrap 16 d)
    | .fault => .error .rangeOverflow

/-- The command write of DPACK (42_delta.md R172; 40_engine.md R123, R124). -/
def execDpack (s : State) : Result := startCommand (opcode .dpack) (fun _ => .dp 0) s

/-- consume of DPACK (42_delta.md R172). PREV holds the previous original value, never the coded difference. -/
def dpackConsume (c : Config) (d : Datapath) (e : Int) : Reply (Datapath × List Int) :=
  match d with
  | .dp prev =>
    check (checkSigned 16 e) fun v =>
      check (dfit c.deltaPolicy (v - prev)) fun diff => .ok (.dp v, naturals (vcode 16 diff))
  | _ => .mismatch

/-- finish of DPACK (42_delta.md R172): an empty input is EmptyInput (60_exceptions.md R236). -/
def dpackFinish (d : Datapath) (n : Nat) : Reply (List Int) :=
  match d with
  | .dp _ => if n = 0 then .error .emptyInput else .ok []
  | _ => .mismatch

/-- The command write of DUNPACK (42_delta.md R173; 40_engine.md R123, R124). -/
def execDunpack (s : State) : Result := startCommand (opcode .dunpack) (fun _ => .du vdecInit 0) s

/-- consume of DUNPACK (42_delta.md R173). -/
def dunpackConsume (c : Config) (d : Datapath) (e : Int) : Reply (Datapath × List Int) :=
  match d with
  | .du r sum =>
    check (checkByte e) fun b =>
      match vdecStep 16 r b with
      | (r', none) => .ok (.du r' sum, [])
      | (r', some diff) => check (dfit c.deltaPolicy (sum + diff)) fun v => .ok (.du r' v, [v])
  | _ => .mismatch

/-- finish of DUNPACK (42_delta.md R173). -/
def dunpackFinish (d : Datapath) : Reply (List Int) :=
  match d with
  | .du r _ => atCodeBoundary r
  | _ => .mismatch

end Sys2Proof.Machine
end

