-- ==== Sys2Proof/Machine/Rle.lean ====
section
/-! DEFINITION. The sparse run-length coder (43_rle.md): the commands RLEENC and RLEDEC. -/
namespace Sys2Proof.Machine

/-- `emit_triple(G, L, V)` of 43_rle.md R187. -/
def emitTriple (g l v : Nat) : Except ErrKind (List Int) :=
  if g ≤ 65535 ∧ l ≤ 65535 then .ok (naturals [g, l, v]) else .error .rangeOverflow

/-- `expand(G, L, V)` of 43_rle.md R191. -/
def expand (g l v : Nat) : List Nat := List.replicate g 0 ++ List.replicate l v

/-- The RE registers at command start (43_rle.md R188). -/
def rleInit : REnc := ⟨.noRun, 0, 0, 0, 0⟩

/-- The command write of RLEENC (43_rle.md R188; 40_engine.md R123, R124). -/
def execRleenc (s : State) : Result := startCommand (opcode .rleenc) (fun _ => .re rleInit) s

/-- consume of RLEENC on a state byte v at index i: the transition table of 43_rle.md R189. -/
def encodeState (r : REnc) (v i : Nat) : Reply (Datapath × List Int) :=
  match r.rs with
  | .inRun =>
    if v = r.cur then .ok (.re { r with rlen := r.rlen + 1 }, [])
    else
      check (emitTriple r.gap r.rlen r.cur) fun outs =>
        if 0 < v then .ok (.re ⟨.inRun, v, 1, 0, i⟩, outs) else .ok (.re ⟨.noRun, 0, 0, 0, i⟩, outs)
  | .noRun =>
    if 0 < v then .ok (.re ⟨.inRun, v, 1, i - r.mark, r.mark⟩, []) else .ok (.re r, [])

/-- consume of RLEENC (43_rle.md R188). -/
def rleencConsume (d : Datapath) (e : Int) (i : Nat) : Reply (Datapath × List Int) :=
  match d with
  | .re r => check (checkState e) fun v => encodeState r v i
  | _ => .mismatch

/-- finish of RLEENC (43_rle.md R188): a run still open gives its triple. -/
def rleencFinish (d : Datapath) : Reply (List Int) :=
  match d with
  | .re r =>
    match r.rs with
    | .inRun => check (emitTriple r.gap r.rlen r.cur) fun outs => .ok outs
    | .noRun => .ok []
  | _ => .mismatch

/-- The command write of RLEDEC (43_rle.md R196; 40_engine.md R123, R124): the operand N is LEN_S, read as unsigned. -/
def execRledec (s : State) : Result := startCommand (opcode .rledec) (fun lenS => .rd ⟨0, 0, 0, 0, lenS.toNat⟩) s

/-- The value word of a triple in RLEDEC (43_rle.md R196, WCNT = 2): CorruptContainer before ChannelLengthMismatch
(60_exceptions.md R240). -/
def decodeTriple (r : RDec) (v : Nat) : Reply (Datapath × List Int) :=
  if 255 < v then .error .corruptContainer
  else if r.n < r.outn + r.g + r.l then .error .channelLengthMismatch
  else .ok (.rd ⟨0, 0, 0, r.outn + r.g + r.l, r.n⟩, naturals (expand r.g r.l v))

/-- consume of RLEDEC (43_rle.md R196). -/
def rledecConsume (d : Datapath) (e : Int) : Reply (Datapath × List Int) :=
  match d with
  | .rd r =>
    check (checkU16 e) fun w =>
      if r.wcnt = 0 then .ok (.rd { r with wcnt := 1, g := w }, [])
      else if r.wcnt = 1 then .ok (.rd { r with wcnt := 2, l := w }, [])
      else decodeTriple r w
  | _ => .mismatch

/-- finish of RLEDEC (43_rle.md R196, R194): the word count must be a multiple of 3; zeros pad the output to N. -/
def rledecFinish (d : Datapath) : Reply (List Int) :=
  match d with
  | .rd r =>
    if r.wcnt ≠ 0 then .error .corruptContainer else .ok (naturals (List.replicate (r.n - r.outn) 0))
  | _ => .mismatch

end Sys2Proof.Machine
end

