-- ==== Sys2Proof/Machine/Segmenter.lean ====
section
/-! DEFINITION. The frame segmenter (44_segmenter.md): quantization and clamping (R205 to R210), and the commands QSPLIT
and QJOIN. -/
namespace Sys2Proof.Machine

/-- `qpos(M, E)` of 44_segmenter.md R207 on the exact rational M / 10^E (R205): rounding first, then clamping. -/
def qpos (ties : RoundTies) (m e : Int) : Int :=
  clamp posMin posMax (roundTies ties (scale * m) (10 ^ e.toNat))

/-- `tconv(T)` of 44_segmenter.md R209 by the parameter TIME_POLICY; no mask, no 24-bit truncation. -/
def tconv (p : TimePolicy) (t : Int) : Except ErrKind Int :=
  if FitsS 32 t then .ok t
  else match p with
    | .saturate => .ok (clamp (-(2 ^ 31 : Int)) ((2 ^ 31 : Int) - 1) t)
    | .fault => .error .rangeOverflow

/-- F at the start of a record of QSPLIT (44_segmenter.md R212). -/
def qsZero : QSFields := ⟨0, 0, 0, 0, 0⟩

/-- F at the start of a record of QJOIN (44_segmenter.md R218). -/
def qjZero : QJFields := ⟨0, 0, 0⟩

/-- The command write of QSPLIT (44_segmenter.md R212; 40_engine.md R123, R124). -/
def execQsplit (s : State) : Result := startCommand (opcode .qsplit) (fun _ => .qs 0 qsZero) s

/-- The TAG of a record in QSPLIT (30_encoding.md R107): 0 FIELDS, 1 EMPTY, any other MalformedInput. -/
def splitTag (f : QSFields) (e : Int) : Reply (Datapath × List Int) :=
  if e = 0 then .ok (.qs 1 f, [])
  else if e = 1 then .ok (.qs 0 f, [])
  else .error .malformedInput

/-- The last element of a record in QSPLIT, S: the record is complete and its four elements are emitted
(44_segmenter.md R212, 30_encoding.md R109). -/
def splitRecord (ties : RoundTies) (f : QSFields) (e : Int) : Reply (Datapath × List Int) :=
  .ok (.qs 0 qsZero, [f.t, qpos ties f.xm f.xe, qpos ties f.ym f.ye, (byte e : Int)])

/-- consume of QSPLIT (44_segmenter.md R212). -/
def qsplitConsume (c : Config) (d : Datapath) (e : Int) : Reply (Datapath × List Int) :=
  match d with
  | .qs fcnt f =>
    match fcnt with
    | 0 => splitTag f e
    | 1 => check (tconv c.timePolicy e) fun t => .ok (.qs 2 { f with t := t }, [])
    | 2 => .ok (.qs 3 { f with xm := e }, [])
    | 3 => check (checkExponent e) fun x => .ok (.qs 4 { f with xe := x }, [])
    | 4 => .ok (.qs 5 { f with ym := e }, [])
    | 5 => check (checkExponent e) fun y => .ok (.qs 6 { f with ye := y }, [])
    | _ => splitRecord c.roundTies f e
  | _ => .mismatch

/-- finish of QSPLIT (44_segmenter.md R212). -/
def qsplitFinish (d : Datapath) : Reply (List Int) :=
  match d with
  | .qs fcnt _ => if fcnt ≠ 0 then .error .malformedInput else .ok []
  | _ => .mismatch

/-- The command write of QJOIN (44_segmenter.md R218; 40_engine.md R123, R124). -/
def execQjoin (s : State) : Result := startCommand (opcode .qjoin) (fun _ => .qj 0 qjZero) s

/-- The output record of QJOIN (30_encoding.md R111; dequantization, 44_segmenter.md R214). -/
def joinRecord (f : QJFields) (v : Nat) : List Int := [0, f.t, f.x * 625, 4, f.y * 625, 4, (v : Int)]

/-- consume of QJOIN (44_segmenter.md R218). -/
def qjoinConsume (d : Datapath) (e : Int) : Reply (Datapath × List Int) :=
  match d with
  | .qj fcnt f =>
    match fcnt with
    | 0 => check (checkSigned 32 e) fun t => .ok (.qj 1 { f with t := t }, [])
    | 1 => check (checkSigned 16 e) fun x => .ok (.qj 2 { f with x := x }, [])
    | 2 => check (checkSigned 16 e) fun y => .ok (.qj 3 { f with y := y }, [])
    | _ => check (checkState e) fun v => .ok (.qj 0 qjZero, joinRecord f v)
  | _ => .mismatch

/-- finish of QJOIN (44_segmenter.md R218): the input must not end inside a record. -/
def qjoinFinish (d : Datapath) : Reply (List Int) :=
  match d with
  | .qj fcnt _ => if fcnt ≠ 0 then .error .channelLengthMismatch else .ok []
  | _ => .mismatch

end Sys2Proof.Machine
end

