-- ==== Sys2Proof/Machine/Dispatch.lean ====
section
/-! DEFINITION. The effect of a command word at its write to CMD (40_engine.md R123), one arm per command. What a started
command then does with its elements is Machine/Engine.lean's. -/
namespace Sys2Proof.Machine

def exec (i : Instr) (s : State) : Host.Outcome State Fault Refusal :=
  match i with
  | .clr => Sys2Proof.Machine.execClr s
  | .vpack16 => Sys2Proof.Machine.execVpack16 s
  | .vpack32 => Sys2Proof.Machine.execVpack32 s
  | .vunpack16 => Sys2Proof.Machine.execVunpack16 s
  | .vunpack32 => Sys2Proof.Machine.execVunpack32 s
  | .dpack => Sys2Proof.Machine.execDpack s
  | .dunpack => Sys2Proof.Machine.execDunpack s
  | .rleenc => Sys2Proof.Machine.execRleenc s
  | .rledec => Sys2Proof.Machine.execRledec s
  | .qsplit => Sys2Proof.Machine.execQsplit s
  | .qjoin => Sys2Proof.Machine.execQjoin s

end Sys2Proof.Machine
end

