-- ==== Sys2Proof/Machine/Engine.lean ====
section
/-! DEFINITION. The engine (40_engine.md section 3): the dispatch from OPREG to a command's functions (R134), the four
engine steps (R130 to R133), and the fold of consume and finish that a command's result is (00_scope.md R16, R136). -/
namespace Sys2Proof.Machine

/-- `consume_OP(dp, e, i)` (00_scope.md R16), the command chosen as 40_engine.md R134 says. CLR has no engine step. -/
def consumeOf (c : Config) (i : Instr) (d : Datapath) (e : Int) (idx : Nat) : Reply (Datapath × List Int) :=
  match i with
  | .clr => .mismatch
  | .vpack16 => vpack16Consume d e
  | .vpack32 => vpack32Consume d e
  | .vunpack16 => vunpack16Consume d e
  | .vunpack32 => vunpack32Consume d e
  | .dpack => dpackConsume c d e
  | .dunpack => dunpackConsume c d e
  | .rleenc => rleencConsume d e idx
  | .rledec => rledecConsume d e
  | .qsplit => qsplitConsume c d e
  | .qjoin => qjoinConsume d e

/-- `finish_OP(dp, n)` (00_scope.md R16), the command chosen as 40_engine.md R134 says. -/
def finishOf (i : Instr) (d : Datapath) (n : Nat) : Reply (List Int) :=
  match i with
  | .clr => .mismatch
  | .vpack16 => vpack16Finish d
  | .vpack32 => vpack32Finish d
  | .vunpack16 => vunpack16Finish d
  | .vunpack32 => vunpack32Finish d
  | .dpack => dpackFinish d n
  | .dunpack => dunpackFinish d
  | .rleenc => rleencFinish d
  | .rledec => rledecFinish d
  | .qsplit => qsplitFinish d
  | .qjoin => qjoinFinish d

/-- `init_OP(len_s)` (00_scope.md R16): the datapath record a command starts with; CLR starts no command. -/
def initOf (i : Instr) (lenS : Word) : Option Datapath :=
  match i with
  | .clr => none
  | .vpack16 => some .vp
  | .vpack32 => some .vp
  | .vunpack16 => some (.vd vdecInit)
  | .vunpack32 => some (.vd vdecInit)
  | .dpack => some (.dp 0)
  | .dunpack => some (.du vdecInit 0)
  | .rleenc => some (.re rleInit)
  | .rledec => some (.rd ⟨0, 0, 0, 0, lenS.toNat⟩)
  | .qsplit => some (.qs 0 qsZero)
  | .qjoin => some (.qj 0 qjZero)

/-- The consume function of the running command, by OPREG and DP (40_engine.md R131, R134). -/
def consumeRunning (s : State) (e : Int) : Reply (Datapath × List Int) :=
  match decodeOp s.opreg, s.dp with
  | some i, some d => consumeOf s.cfg i d e s.inCount.toNat
  | _, _ => .mismatch

/-- The finish function of the running command, by OPREG and DP (40_engine.md R132, R134). -/
def finishRunning (s : State) : Reply (List Int) :=
  match decodeOp s.opreg, s.dp with
  | some i, some d => finishOf i d s.inCount.toNat
  | _, _ => .mismatch

/-- The transfer step is enabled (40_engine.md R130). -/
abbrev TransferEnabled (s : State) : Prop :=
  s.phase = .run ∧ s.pending ≠ [] ∧ s.outFifo.length < s.cfg.outDepth

/-- The consume step is enabled (40_engine.md R131). -/
abbrev ConsumeEnabled (s : State) : Prop :=
  s.phase = .run ∧ s.pending = [] ∧ s.fin = false ∧ s.inFifo ≠ []

/-- The finish step is enabled (40_engine.md R132). -/
abbrev FinishEnabled (s : State) : Prop :=
  s.phase = .run ∧ s.pending = [] ∧ s.fin = false ∧ s.inFifo = [] ∧ s.endFlag = true

/-- The complete step is enabled (40_engine.md R133). -/
abbrev CompleteEnabled (s : State) : Prop :=
  s.phase = .run ∧ s.fin = true ∧ s.pending = []

/-- The effect of the transfer step (40_engine.md R130). -/
def transferStep (s : State) : Result :=
  match s.pending with
  | [] => .next s
  | w :: rest =>
    if s.outCount = countMax then .next (raise .rangeOverflow s.inCount s)
    else .next { s with outFifo := s.outFifo ++ [w], pending := rest, outCount := s.outCount + 1 }

/-- The effect of the consume step (40_engine.md R131): the counter check first, then the command's checks
(60_exceptions.md R240). -/
def consumeStep (s : State) : Result :=
  match s.inFifo with
  | [] => .next s
  | w :: rest =>
    if s.inCount = countMax then .next (raise .rangeOverflow s.inCount s)
    else match consumeRunning s (elementValue w) with
      | .ok (d, outs) =>
        .next { s with
          inFifo := rest
          dp := some d
          pending := s.pending ++ outs.map elementWord
          inCount := s.inCount + 1 }
      | .error k => .next (raise k s.inCount s)
      | .mismatch => .fault .datapathMismatch

/-- The effect of the finish step (40_engine.md R132). -/
def finishStep (s : State) : Result :=
  match finishRunning s with
  | .ok outs => .next { s with pending := s.pending ++ outs.map elementWord, fin := true }
  | .error k => .next (raise k s.inCount s)
  | .mismatch => .fault .datapathMismatch

/-- The effect of the complete step (40_engine.md R133). -/
def completeStep (s : State) : Result := .next { s with phase := .done }

/-- One turn of the engine: the enabled step, of which there is at most one (40_engine.md R121); with none enabled the
engine waits and nothing changes (R135, 60_exceptions.md R254). -/
def engineTurn (s : State) : Result :=
  if TransferEnabled s then transferStep s
  else if ConsumeEnabled s then consumeStep s
  else if FinishEnabled s then finishStep s
  else if CompleteEnabled s then completeStep s
  else .next s

/-- What a command computes from a list of input values (40_engine.md R136). -/
inductive CommandResult where
  /-- The fold succeeds: the run reaches DONE with these output values. -/
  | done (outs : List Int)
  /-- The fold fails: the run reaches ERR with this kind and this ERR_INDEX. -/
  | failed (k : ErrKind) (index : Nat)
  /-- The record is not the command's; `commandResult` never answers it for a command other than CLR. -/
  | mismatch
  deriving DecidableEq, Repr

/-- Outputs emitted before the rest of a fold (00_scope.md R16: outputs are concatenated in order; an error voids them). -/
def CommandResult.after (outs : List Int) : CommandResult → CommandResult
  | .done rest => .done (outs ++ rest)
  | .failed k n => .failed k n
  | .mismatch => .mismatch

/-- The left fold of consume over the elements, then finish (00_scope.md R16), from the record d at index n. -/
def foldFrom (c : Config) (i : Instr) (d : Datapath) (n : Nat) : List Int → CommandResult
  | [] =>
    match finishOf i d n with
    | .ok outs => .done outs
    | .error k => .failed k n
    | .mismatch => .mismatch
  | e :: es =>
    match consumeOf c i d e n with
    | .ok (d', outs) => (foldFrom c i d' (n + 1) es).after outs
    | .error k => .failed k n
    | .mismatch => .mismatch

/-- The result of a command on its input values, with LEN_S = lenS (00_scope.md R16, 40_engine.md R136). -/
def commandResult (c : Config) (i : Instr) (lenS : Word) (es : List Int) : CommandResult :=
  match initOf i lenS with
  | some d => foldFrom c i d 0 es
  | none => .mismatch

end Sys2Proof.Machine
end

