-- ==== Sys2Proof/Machine/Bus.lean ====
section
/-! DEFINITION. The host's side (40_engine.md section 2): the write of a word to CMD, the dispatch of an access by its
offset (R122), and one turn of a run (R120). -/
namespace Sys2Proof.Machine

/-- A write to CMD (40_engine.md R123). A word of the table runs its command (`exec`, which ignores every command but CLR
in ERR); any other word raises IllegalCommand, or is ignored in ERR. CLR's word is the one word 0 (R90). -/
def writeCmd (w : Word) (s : State) : Result :=
  match decode w with
  | .ok i => exec i s
  | .error _ => if s.phase = .err then .next s else .next (raise .illegalCommand s.inCount s)

/-- A 64-bit write at a register's offset (40_engine.md R122). A write to a read-only register or a reserved offset is
ignored (20_memory.md R73). -/
def busWrite (off : Nat) (w : Word) (s : State) : Result :=
  match off with
  | 0x00 => writeCmd w s
  | 0x10 => .next (writeLen w s)
  | 0x18 => .next (writeInData w s)
  | 0x20 => .next (writeInEnd s)
  | _ => .next s

/-- A 64-bit read at a register's offset (40_engine.md R122): OUT_DATA pops (R127), every other read returns the value
and changes nothing (R129, 20_memory.md R73, R74). -/
def busRead (off : Nat) (s : State) : Result :=
  match off with
  | 0x28 => .next (readOutData s)
  | _ => .next (respond off (registerValue off s) s)

/-- One host access. An access the interface does not define is refused by name (20_memory.md R72). -/
def hostAccess (a : Access) (s : State) : Result :=
  if a.width ≠ 64 then .refused .accessWidth
  else if a.offset % 8 ≠ 0 then .refused .accessMisaligned
  else if windowBytes ≤ a.offset then .refused .accessOutsideWindow
  else match a.dir with
    | .write => busWrite a.offset a.data s
    | .read => busRead a.offset s

/-- The state in which the agenda has run out, with the environment's next list in its place (log entry 1). -/
def refill (s : State) : State :=
  { s with agenda := Config.environment s.round, round := s.round + 1 }

/-- One turn of a run (40_engine.md R120): the first turn of the agenda is taken off it and happens. When the agenda has
run out the engine has the turn, and the environment's next list stands after it: an engine step that stays enabled is
taken at the latest then (R120's weak fairness). -/
def takeTurn (s : State) : Result :=
  match s.agenda with
  | [] => engineTurn (refill s)
  | .engine :: rest => engineTurn { s with agenda := rest }
  | .reset :: rest => .next (hardReset { s with agenda := rest })
  | .access a :: rest => hostAccess a { s with agenda := rest }

/-- The agenda with a write of the word w to CMD as its next turn: where the next command word is fetched. -/
def withCommandWord (w : Word) (s : State) : State :=
  { s with agenda := .access (.write64 0x00 w) :: s.agenda }

end Sys2Proof.Machine
end

