-- ==== Sys2Proof/Machine/Step.lean ====
section
/-! DEFINITION. One step of the machine: one turn of a run (40_engine.md R120). -/
namespace Sys2Proof.Machine

/-- One step: the next turn of the run happens. -/
def step (s : State) : Host.Outcome State Fault Refusal := takeTurn s

/-- The state whose next step is a host's write to CMD of the word whose first nbits bits are w (spec/opcode_table.json's
numbering), every bit above them 0. The block fetches no instruction (10_state.md R31): a command is one CMD write, so
this puts that write first on the agenda and changes nothing else (log entry 4). -/
def State.withFetchWord (s : State) (nbits w : Nat) : State :=
  withCommandWord (BitVec.ofNat 64 (w % 2 ^ nbits)) s

end Sys2Proof.Machine
end

