-- ==== Sys2Proof/Machine/HostProgram.lean ====
section
/-! DEFINITION. The host's side as the spec writes it: the mnemonics of 30_encoding.md R114, each one bus access, the
tests of the pseudo-instructions of R115, the record words of R106 and R107, and the codec of each channel (R112). The
block does not use any of it; the host's control flow is the host's own. -/
namespace Sys2Proof.Machine

/-- `CMD op`: write the command word of op to CMD (30_encoding.md R114). -/
def cmdAccess (i : Instr) : Access := .write64 0x00 (encode i)

/-- `SETLEN n`: write n to LEN (30_encoding.md R114). -/
def setLenAccess (n : Word) : Access := .write64 0x10 n

/-- `PUSH v`: write v to IN_DATA, as `v mod 2^64` (30_encoding.md R114). -/
def pushAccess (v : Int) : Access := .write64 0x18 (elementWord v)

/-- `END`: write 0 to IN_END (30_encoding.md R114). -/
def endAccess : Access := .write64 0x20 0

/-- `POP r`: read OUT_DATA (30_encoding.md R114). -/
def popAccess : Access := .read64 0x28

/-- `STAT r`: read STATUS (30_encoding.md R114). -/
def statAccess : Access := .read64 0x08

/-- The registers `RDCNT r, reg` reads (30_encoding.md R114). -/
inductive CountRegister where
  | inCount
  | outCount
  | errIndex
  | len
  deriving DecidableEq, Repr

/-- `RDCNT r, reg`: read a counter, ERR_INDEX or LEN (30_encoding.md R114). -/
def rdcntAccess : CountRegister → Access
  | .inCount => .read64 0x30
  | .outCount => .read64 0x38
  | .errIndex => .read64 0x40
  | .len => .read64 0x10

/-- The PHASE field of a STATUS value a host has read (10_state.md R36). -/
def statPhase (status : Word) : BitVec 2 := status.extractLsb' 0 2

/-- The OUT_VALID field of a STATUS value a host has read (10_state.md R36). -/
def statOutValid (status : Word) : Bool := status.getLsbD 3

/-- The IN_READY field of a STATUS value a host has read (10_state.md R36). -/
def statInReady (status : Word) : Bool := status.getLsbD 4

/-- Where a polling loop of 30_encoding.md R115 goes after one STATUS value. -/
inductive Poll where
  /-- Back to the loop's label: read STATUS again. -/
  | again
  /-- To the program's ERR_EXIT. -/
  | errExit
  /-- On: the awaited access may be made, or the command has ended. -/
  | ready
  /-- To WAITOUT's NOMORE: the command is DONE and OUTFIFO is empty. -/
  | noMore
  deriving DecidableEq, Repr

/-- The tests of `WAITIN` on one STATUS value (30_encoding.md R115). -/
def waitIn (status : Word) : Poll :=
  if statPhase status = Phase.err.code then .errExit
  else if statInReady status = false then .again
  else .ready

/-- The tests of `WAITOUT` on one STATUS value (30_encoding.md R115): OUT_VALID before DONE, so that no element left in
OUTFIFO at DONE is skipped. -/
def waitOut (status : Word) : Poll :=
  if statPhase status = Phase.err.code then .errExit
  else if statOutValid status = true then .ready
  else if statPhase status = Phase.done.code then .noMore
  else .again

/-- The test of `WAITEND` on one STATUS value (30_encoding.md R115). -/
def waitEnd (status : Word) : Poll :=
  if statPhase status = Phase.run.code then .again else .ready

/-- A record as QSPLIT reads it (30_encoding.md R106, R107). -/
inductive SplitRecord where
  /-- TAG 0: the six fields T, XM, XE, YM, YE, S. -/
  | fields (t xm xe ym ye s : Int)
  /-- TAG 1: a degenerate record, skipped. -/
  | empty
  deriving DecidableEq, Repr

/-- The elements of a record, its TAG first (30_encoding.md R106, R107). -/
def recordWords : SplitRecord → List Int
  | .fields t xm xe ym ye s => [0, t, xm, xe, ym, ye, s]
  | .empty => [1]

/-- One record of the four channels, `(t, x, y, s)` (30_encoding.md R109, R110). -/
structure ChannelRecord where
  t : Int
  x : Int
  y : Int
  s : Int
  deriving DecidableEq, Repr

/-- The interleaved elements of a channel record: QSPLIT's output and QJOIN's input (30_encoding.md R109, R110). -/
def channelWords (r : ChannelRecord) : List Int := [r.t, r.x, r.y, r.s]

/-- A channel record whose fields lie in the channel ranges: t in int32, x and y in int16, s in [0, 255]
(44_segmenter.md R213). -/
abbrev ChannelRecord.InRange (r : ChannelRecord) : Prop :=
  FitsS 32 r.t ∧ FitsS 16 r.x ∧ FitsS 16 r.y ∧ 0 ≤ r.s ∧ r.s ≤ 255

/-- The four channels of a record stream (00_scope.md R17). -/
inductive Channel where
  | timeDelta
  | x
  | y
  | inputState
  deriving DecidableEq, Repr

/-- The command that codes a channel in the source's pipeline (30_encoding.md R112). The block does not enforce it. -/
def channelCodec : Channel → Instr
  | .timeDelta => .vpack32
  | .x => .dpack
  | .y => .dpack
  | .inputState => .rleenc

/-- The command that decodes a channel (30_encoding.md R112, R4). -/
def channelDecoder : Channel → Instr
  | .timeDelta => .vunpack32
  | .x => .dunpack
  | .y => .dunpack
  | .inputState => .rledec

end Sys2Proof.Machine
end

