-- ==== Sys2Proof/Machine/ClosedForms.lean ====
section
/-! DEFINITION. The closed forms the spec gives beside its pseudocode: the varint stream (41_varint.md R154), the coded
sequence of a channel (42_delta.md R171), the runs of a state channel (43_rle.md R185) and their expansion (R191). No step
uses them; claims compare the commands with them. -/
namespace Sys2Proof.Machine

/-- e is a signed integer element of width N (30_encoding.md R97). -/
def isSignedElement (n : Nat) (e : Int) : Bool := decide (FitsS n e)

/-- e is a byte element (30_encoding.md R96). -/
def isByteElement (e : Int) : Bool := decide (-128 ≤ e ∧ e ≤ 255)

/-- e is a state byte element (30_encoding.md R99). -/
def isStateElement (e : Int) : Bool := decide (0 ≤ e ∧ e ≤ 255)

/-- The difference d raises no error under the policy (42_delta.md R170). -/
def isCodableDifference (p : DeltaPolicy) (d : Int) : Bool := decide (p = .wrap16 ∨ FitsS 16 d)

/-- The concatenated codes of a list of values (41_varint.md R154). -/
def varintStream (w : Nat) (vs : List Int) : List Nat := vs.flatMap (vcode w)

/-- Decoding a byte stream from the registers r: the registers at its end and the values in order (41_varint.md R151). -/
def decodeStream (w : Nat) (r : VDec) : List Nat → VDec × List Int
  | [] => (r, [])
  | b :: bs =>
    let (r', v) := vdecStep w r b
    let (r'', vs) := decodeStream w r' bs
    (r'', decoded v ++ vs)

/-- The differences of a sequence from a first previous value (42_delta.md R171; PREV starts at 0). -/
def differences (prev : Int) : List Int → List Int
  | [] => []
  | v :: vs => (v - prev) :: differences v vs

/-- A difference after dfit where dfit does not raise (42_delta.md R170): unchanged in int16, else wrapped. -/
def codedDifference (d : Int) : Int := if FitsS 16 d then d else wrap 16 d

/-- The maximal blocks of consecutive equal elements, as (value, length) in order (43_rle.md R185). -/
def blocks : List Nat → List (Nat × Nat)
  | [] => []
  | x :: xs =>
    match blocks xs with
    | (v, n) :: rest => if x = v then (v, n + 1) :: rest else (x, 1) :: (v, n) :: rest
    | [] => [(x, 1)]

/-- A run-length triple (30_encoding.md R104). -/
structure Triple where
  gap : Nat
  len : Nat
  value : Nat
  deriving DecidableEq, Repr

/-- The triples of the non-zero blocks (43_rle.md R185): the gap of a run is the number of zeros since the previous run's
end, zeros of which have been passed already; zeros after the last run give no triple. -/
def triplesOf (zeros : Nat) : List (Nat × Nat) → List Triple
  | [] => []
  | (v, n) :: rest => if v = 0 then triplesOf (zeros + n) rest else ⟨zeros, n, v⟩ :: triplesOf 0 rest

/-- The triples of a state channel (43_rle.md R185). -/
def runTriples (xs : List Nat) : List Triple := triplesOf 0 (blocks xs)

/-- The index `endj` one past the first run whose gap or length exceeds 65535 (43_rle.md R190), if there is one: pos is the
index where the blocks start. -/
def oversizeEnd (pos zeros : Nat) : List (Nat × Nat) → Option Nat
  | [] => none
  | (v, n) :: rest =>
    if v = 0 then oversizeEnd (pos + n) (zeros + n) rest
    else if 65535 < zeros ∨ 65535 < n then some (pos + n)
    else oversizeEnd (pos + n) 0 rest

/-- The three words of a triple, in stream order (30_encoding.md R104). -/
def tripleWords (t : Triple) : List Int := [(t.gap : Int), (t.len : Int), (t.value : Int)]

/-- The bytes a triple stands for (43_rle.md R191). -/
def tripleBytes (t : Triple) : List Nat := expand t.gap t.len t.value

/-- The values of a record's time field after tconv where tconv does not raise (44_segmenter.md R209). -/
def savedTime (t : Int) : Int := clamp (-(2 ^ 31 : Int)) ((2 ^ 31 : Int) - 1) t

/-- What QSPLIT emits for a record (44_segmenter.md R211, R212; 30_encoding.md R109): four elements, or nothing for an
EMPTY record. -/
def splitOutput (ties : RoundTies) : SplitRecord → List Int
  | .fields t xm xe ym ye s => [savedTime t, qpos ties xm xe, qpos ties ym ye, (byte s : Int)]
  | .empty => []

/-- A record QSPLIT accepts (44_segmenter.md R212): exponents in [0, MAX_EXP], and a T in int32 under
`TIME_POLICY = fault`. -/
abbrev SplitRecord.Accepted (p : TimePolicy) : SplitRecord → Prop
  | .fields t _ xe _ ye _ =>
    (0 ≤ xe ∧ xe ≤ maxExp) ∧ (0 ≤ ye ∧ ye ≤ maxExp) ∧ (p = .fault → FitsS 32 t)
  | .empty => True

end Sys2Proof.Machine
end

