-- ==== Sys2Proof/Safety.lean ====
section
/-! DEFINITION. What counts as a sound state and a safe run, in the terms the claims use: the invariant every step keeps,
the parts of an agenda, and the states a command may start from. -/
namespace Sys2Proof.Machine

/-- The varint decoder's registers inside their widths (10_state.md R48): outside an escape K and ACC are 0, inside one
K counts fewer than P payload bytes and ACC is their sum (41_varint.md R151). -/
def VDec.Ok (w : Nat) (r : VDec) : Prop :=
  (r.esc = false → r.k = 0 ∧ r.acc = 0) ∧ (r.esc = true → r.k < payloadBytes w ∧ r.acc < 2 ^ (8 * r.k))

/-- The run-length encoder's registers after n elements (43_rle.md R186, R189): a closed state keeps 0 in CUR, RLEN and
GAP; in a run, previous end + gap + length is the number of elements consumed. -/
def REnc.Ok (n : Nat) (r : REnc) : Prop :=
  (r.rs = .noRun → r.cur = 0 ∧ r.rlen = 0 ∧ r.gap = 0 ∧ r.mark ≤ n) ∧
    (r.rs = .inRun → 1 ≤ r.cur ∧ r.cur ≤ 255 ∧ 1 ≤ r.rlen ∧ r.mark + r.gap + r.rlen = n)

/-- The run-length decoder's registers after n words (43_rle.md R193). -/
def RDec.Ok (lenS : Word) (n : Nat) (r : RDec) : Prop :=
  r.wcnt ≤ 2 ∧ r.wcnt = n % 3 ∧ r.g ≤ 65535 ∧ r.l ≤ 65535 ∧ r.outn ≤ r.n ∧ r.n = lenS.toNat

/-- QSPLIT's registers (10_state.md R48; 44_segmenter.md R212): every field a 64-bit signed word, T in int32 once stored,
an exponent in [0, MAX_EXP] once stored. -/
def QSFields.Ok (fcnt : Nat) (f : QSFields) : Prop :=
  fcnt ≤ 6 ∧ FitsS 64 f.t ∧ FitsS 64 f.xm ∧ FitsS 64 f.xe ∧ FitsS 64 f.ym ∧ FitsS 64 f.ye ∧
    (2 ≤ fcnt → FitsS 32 f.t) ∧ (4 ≤ fcnt → 0 ≤ f.xe ∧ f.xe ≤ maxExp) ∧ (6 ≤ fcnt → 0 ≤ f.ye ∧ f.ye ≤ maxExp)

/-- QJOIN's registers after n elements (10_state.md R48; 44_segmenter.md R218). -/
def QJFields.Ok (fcnt n : Nat) (f : QJFields) : Prop :=
  fcnt ≤ 3 ∧ fcnt = n % 4 ∧ FitsS 32 f.t ∧ FitsS 16 f.x ∧ FitsS 16 f.y

/-- The datapath record of a running command, inside the widths of 10_state.md R48. n is IN_COUNT. -/
def RecordOk (i : Instr) (lenS : Word) (n : Nat) (d : Datapath) : Prop :=
  match i with
  | .clr => False
  | .vpack16 => d = .vp
  | .vpack32 => d = .vp
  | .vunpack16 => ∃ r, d = .vd r ∧ r.Ok 16
  | .vunpack32 => ∃ r, d = .vd r ∧ r.Ok 32
  | .dpack => ∃ prev, d = .dp prev ∧ FitsS 16 prev
  | .dunpack => ∃ r sum, d = .du r sum ∧ r.Ok 16 ∧ FitsS 16 sum
  | .rleenc => ∃ r, d = .re r ∧ r.Ok n
  | .rledec => ∃ r, d = .rd r ∧ r.Ok lenS n
  | .qsplit => ∃ fcnt f, d = .qs fcnt f ∧ f.Ok fcnt
  | .qjoin => ∃ fcnt f, d = .qj fcnt f ∧ f.Ok fcnt n

/-- The invariant of the block: what holds after reset and what every step keeps. -/
structure Inv (s : State) : Prop where
  /-- The parameters are allowed (00_scope.md R7). -/
  parameters : s.cfg.WellFormed
  /-- INFIFO holds at most its capacity (10_state.md R45). -/
  inRoom : s.inFifo.length ≤ s.cfg.inDepth
  /-- OUTFIFO holds at most its capacity (10_state.md R45). -/
  outRoom : s.outFifo.length ≤ s.cfg.outDepth
  /-- IDLE is the state after reset and CLR, but for LEN (40_engine.md R128; 10_state.md R50). -/
  idle : s.phase = .idle → s.opreg = 0 ∧ s.lenS = 0 ∧ s.inFifo = [] ∧ s.outFifo = [] ∧ s.pending = [] ∧
    s.endFlag = false ∧ s.fin = false ∧ s.inCount = 0 ∧ s.outCount = 0 ∧ s.dp = none
  /-- ERRCODE is 0 whenever PHASE is not ERR (10_state.md R43), and ERR_INDEX with it. -/
  noError : s.phase ≠ .err → s.errcode = none ∧ s.errIndex = 0
  /-- In RUN, OPREG is a command's opcode and DP that command's record (40_engine.md R134). -/
  running : s.phase = .run → ∃ i d, decodeOp s.opreg = some i ∧ s.dp = some d ∧ RecordOk i s.lenS s.inCount.toNat d
  /-- FIN is set only at the end of the input (40_engine.md R132). -/
  finished : s.fin = true → s.endFlag = true ∧ s.inFifo = []
  /-- DONE is entered with FIN set and PENDING empty (40_engine.md R133). -/
  done : s.phase = .done → s.fin = true ∧ s.pending = []
  /-- Error entry leaves an error code, ERR_INDEX = IN_COUNT and empty queues (60_exceptions.md R239, R242). -/
  error : s.phase = .err → s.errcode ≠ none ∧ s.errIndex = s.inCount ∧ s.inFifo = [] ∧ s.outFifo = [] ∧
    s.pending = [] ∧ s.dp = none
  /-- What OUTFIFO still holds has been counted (10_state.md R42; 70_reset_and_hazards.md R265). -/
  counted : s.phase = .run ∨ s.phase = .done → s.outFifo.length ≤ s.outCount.toNat

/-- A command may start here (40_engine.md R123, last case): IDLE, or DONE with every output read. -/
abbrev Startable (s : State) : Prop := s.phase = .idle ∨ (s.phase = .done ∧ s.outFifo = [])

/-- A CMD write of a command other than CLR aborts what runs or is not yet read (40_engine.md R123). -/
abbrev Busy (s : State) : Prop := s.phase = .run ∨ (s.phase = .done ∧ s.outFifo ≠ [])

/-- The next turn clears the block: the CMD word 0 (40_engine.md R128), or hardware reset (70_reset_and_hazards.md R260). These
are also the two ways out of ERR (60_exceptions.md R245). -/
def ClearIsNext (s : State) : Prop :=
  ∃ rest, s.agenda = .reset :: rest ∨ ∃ a, s.agenda = .access a :: rest ∧ a.dir = .write ∧ a.offset = 0x00 ∧ a.data = 0

/-- The engine has the next turn. -/
def EngineIsNext (s : State) : Prop := s.agenda = [] ∨ ∃ rest, s.agenda = .engine :: rest

/-- A turn inside one command: not a reset and not a write to CMD. -/
abbrev InsideCommand : Turn → Prop
  | .reset => False
  | .engine => True
  | .access a => ¬ (a.dir = .write ∧ a.offset = 0x00)

/-- The elements an agenda writes to IN_DATA before its first write to IN_END, in order: the input of the command
(40_engine.md R136). -/
def pushedBy : List Turn → List Word
  | [] => []
  | .access a :: rest =>
    if a.dir = .write ∧ a.offset = 0x20 then []
    else if a.dir = .write ∧ a.offset = 0x18 then a.data :: pushedBy rest
    else pushedBy rest
  | .engine :: rest => pushedBy rest
  | .reset :: rest => pushedBy rest

/-- The values the host's OUT_DATA reads have returned, in order. -/
def poppedFrom (rs : List Response) : List Word := (rs.filter (fun r => r.offset == 0x28)).map Response.data

/-- k steps of the machine, stopping at the first fault or refusal. -/
def runSteps (k : Nat) (s : State) : Result := Host.Core.run Sys2Proof.core k s

end Sys2Proof.Machine
end

