-- ==== Sys2Proof/Certificates/Slice0/Obligations.lean ====
section
/-! DEFINITION. The statements for the provers, from the numbered rules of spec/, family by family. A statement about
every state holds in states no run reaches too; where it needs a reachable state it takes `Inv` as a premise, and that
every step keeps `Inv` is a statement of its own. -/

open Sys2Proof Sys2Proof.Machine

/-! ### Command words -/

/-- The command words of R90, written out, decode to their commands; the words of test vectors V2 and V3 do not. -/
def Obligations.WordsOfTheTableDecode : Prop :=
  decode 0x0#64 = .ok .clr ∧ decode 0x10#64 = .ok .vpack16 ∧ decode 0x13#64 = .ok .vunpack32 ∧
  decode 0x21#64 = .ok .dunpack ∧ decode 0x31#64 = .ok .rledec ∧ decode 0x41#64 = .ok .qjoin ∧
  decode 0x14#64 = .error .unassignedOp ∧ decode 0x110#64 = .error .reservedBits

/-- R90: each row of the table matches exactly one 64-bit word, `zext_64(OP)`; decode and encode agree in both
directions. -/
def Obligations.CommandWordSelectsExactlyOneRow : Prop :=
  (∀ (w : Word) (i : Instr), decode w = .ok i ↔ w = encode i) ∧
  encode .clr = 0x00#64 ∧ encode .vpack16 = 0x10#64 ∧ encode .vpack32 = 0x11#64 ∧ encode .vunpack16 = 0x12#64 ∧
  encode .vunpack32 = 0x13#64 ∧ encode .dpack = 0x20#64 ∧ encode .dunpack = 0x21#64 ∧ encode .rleenc = 0x30#64 ∧
  encode .rledec = 0x31#64 ∧ encode .qsplit = 0x40#64 ∧ encode .qjoin = 0x41#64

/-- R92: the illegal command words are those with a reserved bit set and those whose OP is in the listed gaps; a write of
one raises IllegalCommand, and is ignored in phase ERR. -/
def Obligations.IllegalCommandWordsAndTheirWrite : Prop :=
  ∀ w : Word,
    ((∃ k, decode w = .error k) ↔
      reservedField w ≠ 0 ∨ (0x01 ≤ (opField w).toNat ∧ (opField w).toNat ≤ 0x0F) ∨
      (0x14 ≤ (opField w).toNat ∧ (opField w).toNat ≤ 0x1F) ∨ (0x22 ≤ (opField w).toNat ∧ (opField w).toNat ≤ 0x2F) ∨
      (0x32 ≤ (opField w).toNat ∧ (opField w).toNat ≤ 0x3F) ∨ 0x42 ≤ (opField w).toNat) ∧
    ∀ (k : DecodeError) (s : State), decode w = .error k →
      hostAccess (.write64 0x00 w) s =
        if s.phase = .err then .next s
        else .next { s with
          phase := .err, errcode := some .illegalCommand, errIndex := s.inCount
          inFifo := [], outFifo := [], pending := [], dp := none }

/-! ### Turns and the command write -/

/-- R120, R260: a step is the first turn of the agenda; when it has run out the engine has the turn and the environment's next list
follows. The engine is weakly fair: from every state it has a turn after no more steps than the agenda is long, if none of
them stops. That the interleaving stands in the state as lists, each followed by an engine turn, is the model's choice
(log entry 1). -/
def Obligations.StepTakesTheNextTurn : Prop :=
  (∀ (s : State) (rest : List Turn),
    (s.agenda = [] → step s = engineTurn { s with agenda := Config.environment s.round, round := s.round + 1 }) ∧
    (s.agenda = .engine :: rest → step s = engineTurn { s with agenda := rest }) ∧
    (∀ a, s.agenda = .access a :: rest → step s = hostAccess a { s with agenda := rest }) ∧
    (s.agenda = .reset :: rest →
      step s = .next { State.resetWith s.cfg with agenda := rest, round := s.round, reads := s.reads })) ∧
  ∀ s : State, (∀ k, k ≤ s.agenda.length → ∃ t, runSteps k s = .next t) →
    ∃ k t, k ≤ s.agenda.length ∧ runSteps k s = .next t ∧ EngineIsNext t

/-- A step runs the decoded command: when the next turn writes a word to CMD that decodes to a well-formed command, the
step is exec of that command on the state with the turn taken off the agenda; nothing else is added around exec. -/
def Obligations.StepRunsTheDecodedCommand : Prop :=
  ∀ (s : State) (rest : List Turn) (w : Word) (i : Instr),
    s.agenda = .access (.write64 0x00 w) :: rest → decode w = .ok i → i.WellFormed →
      step s = exec i { s with agenda := rest }

/-- R128: CLR is the command word 0; it completes in every phase, sets every component it names, and leaves LEN (and nothing
else of the block) unchanged; in IDLE it changes nothing. STATUS reads 0 afterwards. A word with OP = 0 and a reserved bit
set is no CLR. -/
def Obligations.ClrClearsInEveryPhase : Prop :=
  encode .clr = 0x0000000000000000#64 ∧
  ∀ s : State,
    hostAccess (.write64 0x00 0) s = exec .clr s ∧
    exec .clr s = .next { s with
      phase := .idle, opreg := 0, lenS := 0, inFifo := [], outFifo := [], pending := [], endFlag := false, fin := false
      inCount := 0, outCount := 0, errcode := none, errIndex := 0, dp := none } ∧
    statusWord (clear s) = 0 ∧
    (Inv s → s.phase = .idle → exec .clr s = .next s) ∧
    ∀ w : Word, opField w = 0 → w ≠ 0 → hostAccess (.write64 0x00 w) s =
      if s.phase = .err then .next s else .next (raise .illegalCommand s.inCount s)

/-- R124, R155 to R158: the varint commands start, in IDLE and in DONE with every output read, with exactly these
components written; all others (LEN among them) are unchanged. -/
def Obligations.VarintCommandsStart : Prop :=
  ∀ (s : State), Startable s → ∀ (i : Instr) (op : BitVec 8) (d : Datapath),
    (i, op, d) ∈ [(Instr.vpack16, 0x10#8, Datapath.vp), (.vpack32, 0x11#8, .vp), (.vunpack16, 0x12#8, .vd ⟨false, 0, 0⟩),
      (.vunpack32, 0x13#8, .vd ⟨false, 0, 0⟩)] →
    exec i s = .next { s with
      phase := .run, opreg := op, lenS := s.len, inFifo := [], outFifo := [], pending := [], endFlag := false, fin := false
      inCount := 0, outCount := 0, errcode := none, errIndex := 0, dp := some d }

/-- R124, R172, R173: the delta commands start, in IDLE and in DONE with every output read. -/
def Obligations.DeltaCommandsStart : Prop :=
  ∀ (s : State), Startable s → ∀ (i : Instr) (op : BitVec 8) (d : Datapath),
    (i, op, d) ∈ [(Instr.dpack, 0x20#8, Datapath.dp 0), (.dunpack, 0x21#8, .du ⟨false, 0, 0⟩ 0)] →
    exec i s = .next { s with
      phase := .run, opreg := op, lenS := s.len, inFifo := [], outFifo := [], pending := [], endFlag := false, fin := false
      inCount := 0, outCount := 0, errcode := none, errIndex := 0, dp := some d }

/-- R124, R188, R196: the run-length commands start, in IDLE and in DONE with every output read; RLEDEC's N is LEN read as
an unsigned number. -/
def Obligations.RunLengthCommandsStart : Prop :=
  ∀ (s : State), Startable s → ∀ (i : Instr) (op : BitVec 8) (d : Datapath),
    (i, op, d) ∈ [(Instr.rleenc, 0x30#8, Datapath.re ⟨.noRun, 0, 0, 0, 0⟩), (.rledec, 0x31#8, .rd ⟨0, 0, 0, 0, s.len.toNat⟩)] →
    exec i s = .next { s with
      phase := .run, opreg := op, lenS := s.len, inFifo := [], outFifo := [], pending := [], endFlag := false, fin := false
      inCount := 0, outCount := 0, errcode := none, errIndex := 0, dp := some d }

/-- R124, R212, R218: the segmenter commands start, in IDLE and in DONE with every output read. -/
def Obligations.SegmenterCommandsStart : Prop :=
  ∀ (s : State), Startable s → ∀ (i : Instr) (op : BitVec 8) (d : Datapath),
    (i, op, d) ∈ [(Instr.qsplit, 0x40#8, Datapath.qs 0 ⟨0, 0, 0, 0, 0⟩), (.qjoin, 0x41#8, .qj 0 ⟨0, 0, 0⟩)] →
    exec i s = .next { s with
      phase := .run, opreg := op, lenS := s.len, inFifo := [], outFifo := [], pending := [], endFlag := false, fin := false
      inCount := 0, outCount := 0, errcode := none, errIndex := 0, dp := some d }

/-- R123: the write of any word to CMD, case by case in the order of the rule: ERR, illegal word, CLR, busy, start. -/
def Obligations.CmdWriteFollowsTheCaseOrder : Prop :=
  ∀ (w : Word) (s : State),
    hostAccess (.write64 0x00 w) s =
      if s.phase = .err then (if w = 0 then .next (clear s) else .next s)
      else if reservedField w ≠ 0 ∨ decodeOp (opField w) = none then .next (raise .illegalCommand s.inCount s)
      else if opField w = 0 then .next (clear s)
      else if Busy s then .next (raise .protocolError s.inCount s)
      else .next { s with
        phase := .run, opreg := opField w, lenS := s.len, inFifo := [], outFifo := [], pending := [], endFlag := false
        fin := false, inCount := 0, outCount := 0, errcode := none, errIndex := 0
        dp := (decodeOp (opField w)).bind (fun i => initOf i s.len) }

/-- R270: what a command starts with does not depend on anything an earlier command left: two states that may start a
command and agree on LEN (and on what is not the block's own state) are the same after the same command word. -/
def Obligations.StartForgetsEarlierCommands : Prop :=
  ∀ (i : Instr) (s t : State), i ≠ .clr → Startable s → Startable t → s.len = t.len → s.cfg = t.cfg → s.agenda = t.agenda →
    s.round = t.round → s.reads = t.reads → ∃ u, exec i s = .next u ∧ exec i t = .next u

/-! ### The other host accesses -/

/-- R72: an access of another width, at an offset that is no multiple of 8, or at 0x100 or more is refused by a name that says
which; every other access has a next state. -/
def Obligations.UndefinedAccessesAreRefused : Prop :=
  ∀ (a : Access) (s : State),
    (a.WellFormed → ∃ t, hostAccess a s = .next t) ∧
    (¬ a.WellFormed →
      (hostAccess a s = .refused .accessWidth ∧ a.width ≠ 64) ∨
      (hostAccess a s = .refused .accessMisaligned ∧ a.offset % 8 ≠ 0) ∨
      (hostAccess a s = .refused .accessOutsideWindow ∧ 0x100 ≤ a.offset))

/-- R125, R126: a write to IN_DATA stores the element as written, all 64 bits; a write to IN_END, of any value, sets END. Each
raises ProtocolError where the rule says so, and is ignored in ERR. -/
def Obligations.InputPortWrites : Prop :=
  ∀ (w : Word) (s : State),
    (s.phase = .err → hostAccess (.write64 0x18 w) s = .next s ∧ hostAccess (.write64 0x20 w) s = .next s) ∧
    (s.phase ≠ .err → (s.phase ≠ .run ∨ s.endFlag = true ∨ s.inFifo.length = s.cfg.inDepth) →
      hostAccess (.write64 0x18 w) s = .next (raise .protocolError s.inCount s)) ∧
    (s.phase = .run → s.endFlag = false → s.inFifo.length ≠ s.cfg.inDepth →
      hostAccess (.write64 0x18 w) s = .next { s with inFifo := s.inFifo ++ [w] }) ∧
    (s.phase ≠ .err → (s.phase ≠ .run ∨ s.endFlag = true) →
      hostAccess (.write64 0x20 w) s = .next (raise .protocolError s.inCount s)) ∧
    (s.phase = .run → s.endFlag = false → hostAccess (.write64 0x20 w) s = .next { s with endFlag := true })

/-- R127: a read of OUT_DATA returns the head of OUTFIFO and removes it; with OUTFIFO empty it returns 0, with no effect in
IDLE and ERR and with ProtocolError in RUN and DONE. (The value joins the model's list of read values, log entry 3.) -/
def Obligations.OutDataRead : Prop :=
  ∀ (s : State),
    (∀ w rest, s.outFifo = w :: rest →
      hostAccess (.read64 0x28) s = .next { s with outFifo := rest, reads := s.reads ++ [⟨0x28, w⟩] }) ∧
    (s.outFifo = [] → s.phase = .idle ∨ s.phase = .err →
      hostAccess (.read64 0x28) s = .next { s with reads := s.reads ++ [⟨0x28, 0⟩] }) ∧
    (s.outFifo = [] → s.phase = .run ∨ s.phase = .done →
      hostAccess (.read64 0x28) s = .next { raise .protocolError s.inCount s with reads := s.reads ++ [⟨0x28, 0⟩] })

/-- R129: LEN is written in every phase; reads of STATUS, LEN, IN_COUNT, OUT_COUNT and ERR_INDEX return the register's
current value and change nothing (the value joins what the host has read). -/
def Obligations.LenWriteAndRegisterReads : Prop :=
  ∀ (s : State),
    (∀ w, hostAccess (.write64 0x10 w) s = .next { s with len := w }) ∧
    ∀ off v, (off, v) ∈ [(0x08, statusWord s), (0x10, s.len), (0x30, s.inCount), (0x38, s.outCount), (0x40, s.errIndex)] →
      hostAccess (.read64 off) s = .next { s with reads := s.reads ++ [⟨off, v⟩] }

/-- R73: a read at a reserved offset or of a write-only register returns 0 and changes nothing; a write to a reserved offset
or to a read-only register changes nothing. -/
def Obligations.ReservedOffsetsAndAccessDirection : Prop :=
  ∀ (s : State) (w : Word) (off : Nat), off % 8 = 0 → off < 0x100 →
    ((0x48 ≤ off ∨ off = 0x00 ∨ off = 0x18 ∨ off = 0x20) →
      hostAccess (.read64 off) s = .next { s with reads := s.reads ++ [⟨off, 0⟩] }) ∧
    ((0x48 ≤ off ∨ off = 0x08 ∨ off = 0x28 ∨ off = 0x30 ∨ off = 0x38 ∨ off = 0x40) →
      hostAccess (.write64 off w) s = .next s)

/-- R36: every field of STATUS stands at its bits, and the reserved bits read as 0; a read returns it and changes nothing, a
write changes nothing, and after reset it reads 0. -/
def Obligations.StatusFieldsStandAtTheirBits : Prop :=
  (∀ s : State,
    (statusWord s).extractLsb' 0 2 = (match s.phase with | .idle => 0#2 | .run => 1#2 | .done => 2#2 | .err => 3#2) ∧
    (statusWord s).getLsbD 2 = s.endFlag ∧
    (statusWord s).getLsbD 3 = decide (1 ≤ s.outFifo.length) ∧
    (statusWord s).getLsbD 4 = decide (s.phase = .run ∧ s.endFlag = false ∧ s.inFifo.length < s.cfg.inDepth) ∧
    (statusWord s).getLsbD 5 = s.fin ∧
    (statusWord s).extractLsb' 6 2 = 0 ∧
    (statusWord s).extractLsb' 8 4 = errField s.errcode ∧
    (statusWord s).extractLsb' 12 4 = 0 ∧
    (statusWord s).extractLsb' 16 8 = s.opreg ∧
    (statusWord s).extractLsb' 24 40 = 0) ∧
  (∀ (s : State) (w : Word),
    hostAccess (.read64 0x08) s = .next { s with reads := s.reads ++ [⟨0x08, statusWord s⟩] } ∧
    hostAccess (.write64 0x08 w) s = .next s) ∧
  ∀ c : Config, statusWord (State.resetWith c) = 0

/-- R37: OUT_VALID = 1 guarantees that the next OUT_DATA read returns an element, and IN_READY = 1 that the next IN_DATA
write is accepted; an engine step in between keeps either promise unless it enters ERR, where the read returns 0 and
the write is ignored. -/
def Obligations.ReadyFlagsAreGuarantees : Prop :=
  ∀ s t : State, Inv s → engineTurn s = .next t →
    (outValid s = true → ∃ w rest, s.outFifo = w :: rest ∧
      hostAccess (.read64 0x28) s = .next { s with outFifo := rest, reads := s.reads ++ [⟨0x28, w⟩] }) ∧
    (inReady s = true → ∀ w, hostAccess (.write64 0x18 w) s = .next { s with inFifo := s.inFifo ++ [w] }) ∧
    (outValid s = true → outValid t = true ∨ (t.phase = .err ∧
      hostAccess (.read64 0x28) t = .next { t with reads := t.reads ++ [⟨0x28, 0⟩] })) ∧
    (inReady s = true → inReady t = true ∨ (t.phase = .err ∧ ∀ w, hostAccess (.write64 0x18 w) t = .next t))

/-! ### Error entry, ERR and the ways out -/

/-- R230, R242: the numeric error codes, none of 8 or more; error entry writes exactly these components, and OPREG, LEN, LEN_S, END,
FIN, IN_COUNT and OUT_COUNT (and all else) keep their values. -/
def Obligations.ErrorCodesAndErrorEntry : Prop :=
  (errField none = 0 ∧ errField (some .malformedInput) = 1 ∧ errField (some .channelLengthMismatch) = 2 ∧
    errField (some .corruptContainer) = 3 ∧ errField (some .rangeOverflow) = 4 ∧ errField (some .emptyInput) = 5 ∧
    errField (some .illegalCommand) = 6 ∧ errField (some .protocolError) = 7 ∧ ∀ e, (errField e).toNat < 8) ∧
  ∀ (k : ErrKind) (idx : Word) (s : State), raise k idx s = { s with
    phase := .err, errcode := some k, errIndex := idx, inFifo := [], outFifo := [], pending := [], dp := none }

/-- R243: the behaviour in phase ERR: the engine has no step; only the exact CMD word 0 acts; writes to IN_DATA and IN_END are
ignored; with OUTFIFO empty, as error entry leaves it, an OUT_DATA read returns 0 and has no effect; LEN is written and
the registers are read as in every phase; no access but CLR changes ERRCODE or ERR_INDEX. -/
def Obligations.BehaviourInErr : Prop :=
  ∀ s : State, Inv s → s.phase = .err →
    engineTurn s = .next s ∧
    hostAccess (.write64 0x00 0) s = .next (clear s) ∧
    (∀ w, w ≠ 0 → hostAccess (.write64 0x00 w) s = .next s) ∧
    (∀ w, hostAccess (.write64 0x18 w) s = .next s) ∧
    (∀ w, hostAccess (.write64 0x20 w) s = .next s) ∧
    hostAccess (.read64 0x28) s = .next { s with reads := s.reads ++ [⟨0x28, 0⟩] } ∧
    (∀ w, hostAccess (.write64 0x10 w) s = .next { s with len := w }) ∧
    (∀ off v, (off, v) ∈ [(0x08, statusWord s), (0x10, s.len), (0x30, s.inCount), (0x38, s.outCount), (0x40, s.errIndex)] →
      hostAccess (.read64 off) s = .next { s with reads := s.reads ++ [⟨off, v⟩] }) ∧
    ∀ a t, ¬ (a.dir = .write ∧ a.offset = 0x00 ∧ a.data = 0) → hostAccess a s = .next t →
      t.phase = .err ∧ t.errcode = s.errcode ∧ t.errIndex = s.errIndex

/-- R245: the only ways out of ERR are the CMD word 0 and hardware reset, both to IDLE with ERRCODE, ERR_INDEX and all queues
cleared; any other step stays in ERR with the first error's record. -/
def Obligations.ErrIsLeftOnlyByClrOrReset : Prop :=
  ∀ s t : State, s.phase = .err → step s = .next t →
    (ClearIsNext s → t.phase = .idle ∧ t.errcode = none ∧ t.errIndex = 0 ∧ t.inFifo = [] ∧ t.outFifo = [] ∧ t.pending = []) ∧
    (¬ ClearIsNext s → t.phase = .err ∧ t.errcode = s.errcode ∧ t.errIndex = s.errIndex)

/-- R261, with the reset values of R50: CLR gives the same state as hardware reset, but that CLR leaves LEN unchanged and reset
sets it to 0; neither fails. -/
def Obligations.ClrIsResetButForLen : Prop :=
  ∀ s : State, ∃ c r, exec .clr s = .next c ∧ step { s with agenda := .reset :: s.agenda } = .next r ∧
    c.len = s.len ∧ c = { r with len := s.len } ∧
    r.phase = .idle ∧ r.opreg = 0 ∧ r.len = 0 ∧ r.lenS = 0 ∧ r.inFifo = [] ∧ r.outFifo = [] ∧ r.pending = [] ∧
    r.endFlag = false ∧ r.fin = false ∧ r.inCount = 0 ∧ r.outCount = 0 ∧ r.errcode = none ∧ r.errIndex = 0 ∧ statusWord r = 0

/-- R43: ERRCODE and ERR_INDEX change only at error entry, where ERR_INDEX becomes IN_COUNT, and at command start, CLR and
reset, where both become 0. -/
def Obligations.ErrorRecordChangesOnlyThere : Prop :=
  ∀ s t : State, step s = .next t →
    (t.errcode = s.errcode ∧ t.errIndex = s.errIndex) ∨
    (s.phase ≠ .err ∧ t.phase = .err ∧ t.errcode ≠ none ∧ t.errIndex = s.inCount ∧ t.inCount = s.inCount) ∨
    (t.errcode = none ∧ t.errIndex = 0 ∧ ((t.phase = .run ∧ s.phase ≠ .run) ∨ t.phase = .idle))

/-! ### The engine -/

/-- R121: an engine step is enabled only in RUN, and at most one of the four in any state; outside RUN an engine turn changes
nothing. -/
def Obligations.AtMostOneEngineStepIsEnabled : Prop :=
  ∀ s : State,
    (TransferEnabled s ∨ ConsumeEnabled s ∨ FinishEnabled s ∨ CompleteEnabled s → s.phase = .run) ∧
    ¬ (TransferEnabled s ∧ ConsumeEnabled s) ∧ ¬ (TransferEnabled s ∧ FinishEnabled s) ∧
    ¬ (TransferEnabled s ∧ CompleteEnabled s) ∧ ¬ (ConsumeEnabled s ∧ FinishEnabled s) ∧
    ¬ (ConsumeEnabled s ∧ CompleteEnabled s) ∧ ¬ (FinishEnabled s ∧ CompleteEnabled s) ∧
    (s.phase ≠ .run → engineTurn s = .next s)

/-- R135: in RUN the engine waits in exactly two cases, and each is lifted by a host step: by an OUT_DATA read when OUTFIFO
is full, by an IN_DATA or IN_END write when the engine needs input. While it waits an engine turn changes nothing. -/
def Obligations.EngineWaitsInExactlyTwoCases : Prop :=
  ∀ s : State, Inv s → s.phase = .run →
    ((¬ TransferEnabled s ∧ ¬ ConsumeEnabled s ∧ ¬ FinishEnabled s ∧ ¬ CompleteEnabled s) ↔
      (s.pending ≠ [] ∧ s.outFifo.length = s.cfg.outDepth) ∨
      (s.pending = [] ∧ s.fin = false ∧ s.inFifo = [] ∧ s.endFlag = false)) ∧
    ((s.pending ≠ [] ∧ s.outFifo.length = s.cfg.outDepth) →
      engineTurn s = .next s ∧ ∃ t, hostAccess (.read64 0x28) s = .next t ∧ TransferEnabled t) ∧
    ((s.pending = [] ∧ s.fin = false ∧ s.inFifo = [] ∧ s.endFlag = false) →
      engineTurn s = .next s ∧ (∀ w, ∃ t, hostAccess (.write64 0x18 w) s = .next t ∧ ConsumeEnabled t) ∧
        ∀ w, ∃ t, hostAccess (.write64 0x20 w) s = .next t ∧ FinishEnabled t)

/-- R130: the transfer step moves the oldest pending element into OUTFIFO, or raises RangeOverflow at the counter's end. -/
def Obligations.TransferStepMovesOneElement : Prop :=
  ∀ (s : State) (w : Word) (rest : List Word), TransferEnabled s → s.pending = w :: rest →
    engineTurn s =
      if s.outCount.toNat = 2 ^ 64 - 1 then .next (raise .rangeOverflow s.inCount s)
      else .next { s with outFifo := s.outFifo ++ [w], pending := rest, outCount := s.outCount + 1 }

/-- R131: the consume step, for the command OPREG names: the counter check first; an error leaves the element unconsumed and
is recorded at its index; else the element leaves INFIFO, DP is replaced, the outputs join PENDING and IN_COUNT goes up. -/
def Obligations.ConsumeStepTakesOneElement : Prop :=
  ∀ (s : State) (w : Word) (rest : List Word) (i : Instr) (d : Datapath), ConsumeEnabled s → s.inFifo = w :: rest →
    decodeOp s.opreg = some i → s.dp = some d →
    (s.inCount.toNat = 2 ^ 64 - 1 → engineTurn s = .next (raise .rangeOverflow s.inCount s)) ∧
    (s.inCount.toNat ≠ 2 ^ 64 - 1 →
      (∀ k, consumeOf s.cfg i d w.toInt s.inCount.toNat = .error k → engineTurn s = .next (raise k s.inCount s)) ∧
      (∀ d' outs, consumeOf s.cfg i d w.toInt s.inCount.toNat = .ok (d', outs) →
        engineTurn s = .next { s with
          inFifo := rest, dp := some d', pending := outs.map (BitVec.ofInt 64), inCount := s.inCount + 1 }))

/-- R132, R133: the finish step emits the command's last outputs and sets FIN, or raises at n = IN_COUNT; the complete step
changes PHASE alone. -/
def Obligations.FinishAndCompleteSteps : Prop :=
  ∀ (s : State),
    (∀ (i : Instr) (d : Datapath), FinishEnabled s → decodeOp s.opreg = some i → s.dp = some d →
      (∀ k, finishOf i d s.inCount.toNat = .error k → engineTurn s = .next (raise k s.inCount s)) ∧
      (∀ outs, finishOf i d s.inCount.toNat = .ok outs →
        engineTurn s = .next { s with pending := outs.map (BitVec.ofInt 64), fin := true })) ∧
    (CompleteEnabled s → engineTurn s = .next { s with phase := .done })

/-- R42: IN_COUNT and OUT_COUNT never wrap: both are set to 0 at command start, CLR and reset, and any other step leaves each as it
is or raises it by exactly one, as a number. -/
def Obligations.CountersNeverWrap : Prop :=
  ∀ s t : State, step s = .next t →
    ((ClearIsNext s ∨ (Startable s ∧ t.phase = .run)) → t.inCount = 0 ∧ t.outCount = 0) ∧
    (¬ (ClearIsNext s ∨ (Startable s ∧ t.phase = .run)) →
      (t.inCount = s.inCount ∨ t.inCount.toNat = s.inCount.toNat + 1) ∧
      (t.outCount = s.outCount ∨ t.outCount.toNat = s.outCount.toNat + 1))

/-- R38: LEN changes only by a host write to LEN, whose value it takes, and by reset, which sets it to 0; CLR, every command and
every engine step leave it. LEN_S changes only at command start, where it takes LEN, and at CLR and reset. -/
def Obligations.LenChangesOnlyByWriteOrReset : Prop :=
  ∀ s t : State, step s = .next t →
    (t.len = s.len ∨ (∃ a rest, s.agenda = .access a :: rest ∧ a.dir = .write ∧ a.offset = 0x10 ∧ t.len = a.data) ∨
      (∃ rest, s.agenda = .reset :: rest ∧ t.len = 0)) ∧
    (t.lenS = s.lenS ∨ (Startable s ∧ t.phase = .run ∧ t.lenS = s.len) ∨ (t.phase = .idle ∧ t.lenS = 0))

/-- R33, R47: PHASE moves only along these transitions, and OPREG changes only when a command starts (to its opcode) and to 0
at CLR and reset. -/
def Obligations.PhaseTransitionsAndOpreg : Prop :=
  ∀ s t : State, step s = .next t →
    (s.phase, t.phase) ∈ [(Phase.idle, Phase.idle), (.idle, .run), (.idle, .err), (.run, .run), (.run, .done), (.run, .err),
      (.run, .idle), (.done, .done), (.done, .run), (.done, .err), (.done, .idle), (.err, .err), (.err, .idle)] ∧
    (t.opreg = s.opreg ∨ (t.phase = .idle ∧ t.opreg = 0) ∨
      (t.phase = .run ∧ Startable s ∧ ∃ i, i ≠ .clr ∧ t.opreg = opcode i))

/-- R52, R71: no step changes a parameter, and no rule of the block depends on WINDOW_BASE: a block at another base makes the
same step. That the parameters stand in the state is the model's choice (log entry 2). -/
def Obligations.ParametersAreFixedAndTheBaseIsIrrelevant : Prop :=
  ∀ (s t : State) (b : Nat), step s = .next t →
    t.cfg = s.cfg ∧
    step { s with cfg := { s.cfg with windowBase := b } } = .next { t with cfg := { t.cfg with windowBase := b } }

/-! ### Invariant and safety -/

/-- The machine right after reset meets the invariant; its STATUS reads 0 (R50, with log entries 1 to 3 for what the spec
leaves open: no turn to come, no list of the environment used, no read returned, the parameters of `Config.standard`). -/
def Obligations.ResetMeetsTheInvariant : Prop := Inv State.reset ∧ statusWord State.reset = 0

/-- Every step from a state that meets the invariant (the model's own collection of R42, R43, R45, R46, R48, R133, R134) ends in
one that meets it: FIFO capacities, the idle state, the error record,
the record of the running command inside its widths. -/
def Obligations.EveryStepKeepsTheInvariant : Prop :=
  ∀ s t : State, Inv s → step s = .next t → Inv t

/-- From a state that meets the invariant a step never faults, and it is refused only for a host access the interface does not
define; so OPREG and DP always name a running command (R134). -/
def Obligations.NoFaultFromTheInvariant : Prop :=
  ∀ s : State, Inv s →
    (∀ f, step s ≠ .fault f) ∧
    (∀ r, step s = .refused r → ∃ a rest, s.agenda = .access a :: rest ∧ ¬ a.WellFormed)

/-! ### What a run computes -/

/-- From R136: take any interleaving of host accesses and engine turns inside one command, from its CMD write on, in which no
ProtocolError is raised. At DONE the fold of the command over all elements written succeeds, and the elements popped and
those still in OUTFIFO are its outputs in order, OUT_COUNT of them; at ERR the fold fails with that error at that index.
(Fewer than 2^60 elements: no counter reaches its end.) -/
def Obligations.ResultIsTheFoldForEveryInterleaving : Prop :=
  ∀ (i : Instr) (s t : State) (sched : List Turn),
    i ≠ .clr → Startable s → s.reads = [] → s.agenda = .access (cmdAccess i) :: sched →
    (∀ u ∈ sched, InsideCommand u) → (pushedBy sched).length < 2 ^ 60 →
    runSteps (1 + sched.length) s = .next t → t.errcode ≠ some .protocolError →
    (t.phase = .done →
      ∃ xs, commandResult s.cfg i s.len ((pushedBy sched).map elementValue) = .done xs ∧ t.outCount.toNat = xs.length ∧
        poppedFrom t.reads ++ t.outFifo = xs.map elementWord) ∧
    (t.phase = .err →
      ∃ e n, commandResult s.cfg i s.len ((pushedBy sched).map elementValue) = .failed e n ∧ t.errcode = some e ∧
        t.errIndex.toNat = n)

/-- R264, R271: a host whose input fits INFIFO and whose outputs fit OUTFIFO writes the command word, the n elements and IN_END; then
the command takes exactly n + m + 2 engine steps to DONE, m being the number of outputs, and OUTFIFO holds them in order. -/
def Obligations.CommandReachesDoneInNPlusMPlusTwoEngineSteps : Prop :=
  ∀ (i : Instr) (s : State) (ws : List Word) (xs : List Int),
    Startable s → ws.length ≤ s.cfg.inDepth → xs.length ≤ s.cfg.outDepth → ws.length < 2 ^ 64 → xs.length < 2 ^ 64 →
    s.agenda = .access (cmdAccess i) :: (ws.map (fun w => Turn.access (.write64 0x18 w)) ++ .access endAccess ::
      List.replicate (ws.length + xs.length + 2) .engine) →
    commandResult s.cfg i s.len (ws.map elementValue) = .done xs →
    (∃ d, runSteps (ws.length + 2 + (ws.length + xs.length + 2)) s = .next { s with
      phase := .done, opreg := opcode i, lenS := s.len, inFifo := [], outFifo := xs.map elementWord, pending := []
      endFlag := true, fin := true, inCount := BitVec.ofNat 64 ws.length, outCount := BitVec.ofNat 64 xs.length
      errcode := none, errIndex := 0, dp := some d, agenda := [] }) ∧
    ∀ k t, 1 ≤ k → k < ws.length + 2 + (ws.length + xs.length + 2) → runSteps k s = .next t → t.phase = .run

/-- R271, R272: how many outputs m a command that reaches DONE has for n inputs. -/
def Obligations.OutputCountsAreBounded : Prop :=
  ∀ (c : Config) (lenS : Word) (es xs : List Int),
    (commandResult c .vpack16 lenS es = .done xs → xs.length ≤ 3 * es.length) ∧
    (commandResult c .vpack32 lenS es = .done xs → xs.length ≤ 5 * es.length) ∧
    (commandResult c .vunpack16 lenS es = .done xs → xs.length ≤ es.length) ∧
    (commandResult c .vunpack32 lenS es = .done xs → xs.length ≤ es.length) ∧
    (commandResult c .dpack lenS es = .done xs → xs.length ≤ 3 * es.length) ∧
    (commandResult c .dunpack lenS es = .done xs → xs.length ≤ es.length) ∧
    (commandResult c .rleenc lenS es = .done xs → xs.length ≤ 3 * es.length) ∧
    (commandResult c .rledec lenS es = .done xs → xs.length = lenS.toNat) ∧
    (commandResult c .qsplit lenS es = .done xs → 7 * xs.length ≤ 4 * es.length) ∧
    (commandResult c .qjoin lenS es = .done xs → 4 * xs.length = 7 * es.length)

/-! ### Varint byte packer -/

/-- R100: the varint code of a value is a literal byte other than 0x80, or the escape byte and W/8 payload bytes, least
significant first, the last one v >> (W-8). -/
def Obligations.VarintCodeForms : Prop :=
  (∀ (w : Nat) (v : Int), -127 ≤ v → v ≤ 127 → vcode w v = [byte v] ∧ byte v ≠ 0x80 ∧ byte v < 256) ∧
  (∀ v : Int, FitsS 16 v → ¬ (-127 ≤ v ∧ v ≤ 127) →
    vcode 16 v = [0x80, byte v, byte (asr v 8)] ∧ -128 ≤ asr v 8 ∧ asr v 8 ≤ 127) ∧
  (∀ v : Int, FitsS 32 v → ¬ (-127 ≤ v ∧ v ≤ 127) →
    vcode 32 v = [0x80, byte v, byte (asr v 8), byte (asr v 16), byte (asr v 24)] ∧ -128 ≤ asr v 24 ∧ asr v 24 ≤ 127)

/-- R102, R103: a literal byte stands for s8 of it; an escape for the sum of its payload bytes, the last one signed, canonical or
not; the value always fits W bits. -/
def Obligations.VarintValueAssembly : Prop :=
  (∀ w b, (w = 16 ∨ w = 32) → b < 256 → b ≠ 0x80 →
    decodeStream w vdecInit [b] = (vdecInit, [s8 b]) ∧ -127 ≤ s8 b ∧ s8 b ≤ 127) ∧
  (∀ p0 p1, p0 < 256 → p1 < 256 →
    decodeStream 16 vdecInit [0x80, p0, p1] = (vdecInit, [(p0 : Int) + s8 p1 * 256]) ∧ FitsS 16 ((p0 : Int) + s8 p1 * 256)) ∧
  (∀ p0 p1 p2 p3, p0 < 256 → p1 < 256 → p2 < 256 → p3 < 256 →
    decodeStream 32 vdecInit [0x80, p0, p1, p2, p3] =
      (vdecInit, [(p0 : Int) + p1 * 2 ^ 8 + p2 * 2 ^ 16 + s8 p3 * 2 ^ 24]) ∧
    FitsS 32 ((p0 : Int) + p1 * 2 ^ 8 + p2 * 2 ^ 16 + s8 p3 * 2 ^ 24))

/-- R155, R156: VPACK emits the codes of its elements in order; the first element outside the width raises RangeOverflow at its
index. -/
def Obligations.VpackResult : Prop :=
  ∀ (c : Config) (lenS : Word) (w : Nat) (i : Instr) (es : List Int), (w, i) ∈ [(16, Instr.vpack16), (32, .vpack32)] →
    commandResult c i lenS es =
      if (es.takeWhile (isSignedElement w)).length = es.length then .done (naturals (varintStream w es))
      else .failed .rangeOverflow (es.takeWhile (isSignedElement w)).length

/-- R157, R158, R153: VUNPACK decodes its byte stream; the first element outside [-128, 255] raises RangeOverflow at its index, and a
stream that ends inside an escape raises CorruptContainer at n. -/
def Obligations.VunpackResult : Prop :=
  ∀ (c : Config) (lenS : Word) (w : Nat) (i : Instr) (es : List Int), (w, i) ∈ [(16, Instr.vunpack16), (32, .vunpack32)] →
    commandResult c i lenS es =
      if (es.takeWhile isByteElement).length ≠ es.length then
        .failed .rangeOverflow (es.takeWhile isByteElement).length
      else if (decodeStream w vdecInit (es.map byte)).1.esc = true then .failed .corruptContainer es.length
      else .done (decodeStream w vdecInit (es.map byte)).2

/-- R153, R101: after whole codes, an escape byte with fewer than P payload bytes raises CorruptContainer at n. -/
def Obligations.TruncatedEscapeIsCorrupt : Prop :=
  ∀ (c : Config) (lenS : Word) (w : Nat) (i : Instr) (vs : List Int) (ps : List Nat),
    (w, i) ∈ [(16, Instr.vunpack16), (32, .vunpack32)] → (∀ v ∈ vs, FitsS w v) → (∀ p ∈ ps, p < 256) →
    ps.length < w / 8 →
    commandResult c i lenS (naturals (varintStream w vs ++ 0x80 :: ps)) =
      .failed .corruptContainer (varintStream w vs ++ 0x80 :: ps).length

/-- R154: decoding the concatenated codes of a list of values returns the list and ends outside an escape, a code has 1 or 1 + W/8
bytes, and so VUNPACK undoes VPACK. -/
def Obligations.VarintRoundTrip : Prop :=
  ∀ (w : Nat) (pack unpack : Instr), (w, pack, unpack) ∈ [(16, Instr.vpack16, Instr.vunpack16), (32, .vpack32, .vunpack32)] →
    (∀ vs : List Int, (∀ v ∈ vs, FitsS w v) →
      decodeStream w vdecInit (varintStream w vs) = (vdecInit, vs) ∧
      ∀ (c : Config) (lenS : Word), ∃ bs, commandResult c pack lenS vs = .done bs ∧ commandResult c unpack lenS bs = .done vs) ∧
    ∀ v : Int, FitsS w v → (vcode w v).length = if -127 ≤ v ∧ v ≤ 127 then 1 else 1 + w / 8

/-! ### Delta channel coder -/

/-- R172, R171, R170: DPACK codes the first value and the consecutive differences; an empty input raises EmptyInput at 0; an element
outside int16, or under `DELTA_POLICY = fault` a difference outside int16, raises RangeOverflow at its index. -/
def Obligations.DpackResult : Prop :=
  ∀ (c : Config) (lenS : Word) (vs : List Int),
    let ds := differences 0 (vs.takeWhile (isSignedElement 16))
    let good := ds.takeWhile (isCodableDifference c.deltaPolicy)
    commandResult c .dpack lenS vs =
      if vs = [] then .failed .emptyInput 0
      else if good.length ≠ vs.length then .failed .rangeOverflow good.length
      else .done (naturals (ds.flatMap (fun d => vcode 16 (codedDifference d))))

/-- R174: under `fault`, DUNPACK of what DPACK gives returns its input; under `wrap16`, DPACK reaches DONE on every non-empty int16
list and the same holds. -/
def Obligations.DeltaRoundTrip : Prop :=
  ∀ (c : Config) (lenS : Word) (vs : List Int),
    (∀ bs, c.deltaPolicy = .fault → commandResult c .dpack lenS vs = .done bs → commandResult c .dunpack lenS bs = .done vs) ∧
    (c.deltaPolicy = .wrap16 → vs ≠ [] → (∀ v ∈ vs, FitsS 16 v) →
      ∃ bs, commandResult c .dpack lenS vs = .done bs ∧ commandResult c .dunpack lenS bs = .done vs)

/-- R173: one byte of DUNPACK: no output inside a code; a completed difference is added to SUM, brought into int16 by DELTA_POLICY,
emitted and kept as SUM; the end of input inside an escape is CorruptContainer. -/
def Obligations.DunpackByte : Prop :=
  ∀ (c : Config) (r r' : VDec) (sum e : Int) (n : Nat),
    (e < -128 ∨ 255 < e → consumeOf c .dunpack (.du r sum) e n = .error .rangeOverflow) ∧
    (-128 ≤ e → e ≤ 255 →
      (vdecStep 16 r (byte e) = (r', none) → consumeOf c .dunpack (.du r sum) e n = .ok (.du r' sum, [])) ∧
      (∀ d, vdecStep 16 r (byte e) = (r', some d) →
        (FitsS 16 (sum + d) → consumeOf c .dunpack (.du r sum) e n = .ok (.du r' (sum + d), [sum + d])) ∧
        (¬ FitsS 16 (sum + d) → c.deltaPolicy = .wrap16 →
          consumeOf c .dunpack (.du r sum) e n = .ok (.du r' (wrap 16 (sum + d)), [wrap 16 (sum + d)])) ∧
        (¬ FitsS 16 (sum + d) → c.deltaPolicy = .fault →
          consumeOf c .dunpack (.du r sum) e n = .error .rangeOverflow))) ∧
    finishOf .dunpack (.du r sum) n = if r.esc = true then .error .corruptContainer else .ok []

/-! ### Sparse run-length coder -/

/-- R189: the transition table of the encoder. -/
def Obligations.RleencTransitionTable : Prop :=
  ∀ (c : Config) (r : REnc) (v i : Nat), v ≤ 255 →
    (r.rs = .noRun → v = 0 → consumeOf c .rleenc (.re r) v i = .ok (.re r, [])) ∧
    (r.rs = .noRun → 0 < v → consumeOf c .rleenc (.re r) v i = .ok (.re ⟨.inRun, v, 1, i - r.mark, r.mark⟩, [])) ∧
    (r.rs = .inRun → v = r.cur → consumeOf c .rleenc (.re r) v i = .ok (.re { r with rlen := r.rlen + 1 }, [])) ∧
    (r.rs = .inRun → v ≠ r.cur → 65535 < r.gap ∨ 65535 < r.rlen → consumeOf c .rleenc (.re r) v i = .error .rangeOverflow) ∧
    (r.rs = .inRun → v ≠ r.cur → r.gap ≤ 65535 → r.rlen ≤ 65535 →
      consumeOf c .rleenc (.re r) v i =
        .ok (.re (if v = 0 then ⟨.noRun, 0, 0, 0, i⟩ else ⟨.inRun, v, 1, 0, i⟩), [(r.gap : Int), (r.rlen : Int), (r.cur : Int)]))

/-- R185, R190: on every input, RLEENC gives the triples of the maximal non-zero blocks, or raises RangeOverflow: at the end of the
first run whose gap or length exceeds 65535, or at the first element outside [0, 255] if that comes before. -/
def Obligations.RleencIsTheClosedForm : Prop :=
  ∀ (c : Config) (lenS : Word) (es : List Int),
    let good := es.takeWhile isStateElement
    let bs := blocks (good.map Int.toNat)
    commandResult c .rleenc lenS es =
      match oversizeEnd 0 0 bs with
      | some j => .failed .rangeOverflow j
      | none =>
        if good.length = es.length then .done ((triplesOf 0 bs).flatMap tripleWords) else .failed .rangeOverflow good.length

/-- R197: RLEDEC reaches DONE exactly when the words are whole triples in range that expand to at most N bytes; its output is
then the expansions and zeros up to N, N elements in all. -/
def Obligations.RledecIsTheClosedForm : Prop :=
  ∀ (c : Config) (lenS : Word) (ws xs : List Int),
    (commandResult c .rledec lenS ws = .done xs ↔
      ∃ ts : List Triple, ws = ts.flatMap tripleWords ∧ (∀ t ∈ ts, t.gap ≤ 65535 ∧ t.len ≤ 65535 ∧ t.value ≤ 255) ∧
        (ts.flatMap tripleBytes).length ≤ lenS.toNat ∧
        xs = naturals (ts.flatMap tripleBytes ++ List.replicate (lenS.toNat - (ts.flatMap tripleBytes).length) 0)) ∧
    (commandResult c .rledec lenS ws = .done xs → xs.length = lenS.toNat)

/-- R198: RLEDEC of what RLEENC gives, with N the length of the input, returns the input. -/
def Obligations.RunLengthRoundTrip : Prop :=
  ∀ (c : Config) (lenS : Word) (es ws : List Int), es.length < 2 ^ 64 → commandResult c .rleenc lenS es = .done ws →
    commandResult c .rledec (BitVec.ofNat 64 es.length) ws = .done es

/-- R194, R195, R196, R240: how RLEDEC rejects: after whole triples that expand to u bytes at most N, a word outside u16 raises
RangeOverflow at its index, a value word above 255 raises CorruptContainer even where the length check fails too, an
expansion past N raises ChannelLengthMismatch, and one or two words at the end raise CorruptContainer at n. -/
def Obligations.RledecRejections : Prop :=
  ∀ (c : Config) (lenS : Word) (ts : List Triple) (g l v : Nat) (e : Int) (rest : List Int),
    (∀ t ∈ ts, t.gap ≤ 65535 ∧ t.len ≤ 65535 ∧ t.value ≤ 255) → (ts.flatMap tripleBytes).length ≤ lenS.toNat →
    g ≤ 65535 → l ≤ 65535 → v ≤ 65535 →
    (¬ FitsU 16 e →
      commandResult c .rledec lenS (ts.flatMap tripleWords ++ e :: rest) = .failed .rangeOverflow (3 * ts.length) ∧
      commandResult c .rledec lenS (ts.flatMap tripleWords ++ (g : Int) :: e :: rest) = .failed .rangeOverflow (3 * ts.length + 1) ∧
      commandResult c .rledec lenS (ts.flatMap tripleWords ++ (g : Int) :: (l : Int) :: e :: rest) =
        .failed .rangeOverflow (3 * ts.length + 2)) ∧
    (255 < v → commandResult c .rledec lenS (ts.flatMap tripleWords ++ (g : Int) :: (l : Int) :: (v : Int) :: rest) =
      .failed .corruptContainer (3 * ts.length + 2)) ∧
    (v ≤ 255 → lenS.toNat < (ts.flatMap tripleBytes).length + g + l →
      commandResult c .rledec lenS (ts.flatMap tripleWords ++ (g : Int) :: (l : Int) :: (v : Int) :: rest) =
        .failed .channelLengthMismatch (3 * ts.length + 2)) ∧
    commandResult c .rledec lenS (ts.flatMap tripleWords ++ [(g : Int)]) = .failed .corruptContainer (3 * ts.length + 1) ∧
    commandResult c .rledec lenS (ts.flatMap tripleWords ++ [(g : Int), (l : Int)]) = .failed .corruptContainer (3 * ts.length + 2)

/-! ### Frame segmenter -/

/-- R13, R206: clamp brings a value into its bounds; round_ties gives an integer nearest to num / den; exactly halfway it is the
even one, or the one of larger absolute value, by ROUND_TIES. -/
def Obligations.RoundTiesIsNearest : Prop :=
  (∀ lo hi v : Int, clamp lo hi v = if v < lo then lo else if v > hi then hi else v) ∧
  ∀ (ties : RoundTies) (num den : Int), 0 < den →
    let q := roundTies ties num den;
    -den ≤ 2 * (num - q * den) ∧ 2 * (num - q * den) ≤ den ∧
    ((2 * (num - q * den) = den ∨ 2 * (num - q * den) = -den) →
      (ties = .even → q % 2 = 0) ∧ (ties = .away → (0 < num → num < q * den) ∧ (num < 0 → q * den < num)))

/-- R206, R207, R208, R214: a quantized position always lies in int16 and saturates at both bounds; between them it is an integer
nearest to 16 * M / 10^E, exactly halfway the even one or the one of larger absolute value, by ROUND_TIES; and every int16
X is the quantized value of its dequantized form X * 625 / 10^4. -/
def Obligations.PositionsSaturateAndDequantizeExactly : Prop :=
  (∀ ties m e, -32768 ≤ qpos ties m e ∧ qpos ties m e ≤ 32767) ∧
  (∀ (ties : RoundTies) (m e : Int), 0 ≤ e → 32767 * 10 ^ e.toNat ≤ 16 * m → qpos ties m e = 32767) ∧
  (∀ (ties : RoundTies) (m e : Int), 0 ≤ e → 16 * m ≤ -32768 * 10 ^ e.toNat → qpos ties m e = -32768) ∧
  (∀ (ties : RoundTies) (m e : Int), 0 ≤ e → -32768 * 10 ^ e.toNat ≤ 16 * m → 16 * m ≤ 32767 * 10 ^ e.toNat →
    let q := qpos ties m e;
    let den : Int := 10 ^ e.toNat;
    -den ≤ 2 * (16 * m - q * den) ∧ 2 * (16 * m - q * den) ≤ den ∧
    ((2 * (16 * m - q * den) = den ∨ 2 * (16 * m - q * den) = -den) →
      (ties = .even → q % 2 = 0) ∧ (ties = .away → (0 < m → 16 * m < q * den) ∧ (m < 0 → q * den < 16 * m)))) ∧
  (∀ ties x, FitsS 16 x → qpos ties (x * 625) 4 = x)

/-- R211, R212: QSPLIT on accepted records emits `[t, qx, qy, s]` for each FIELDS record in order and nothing for an EMPTY one. -/
def Obligations.QsplitResult : Prop :=
  ∀ (c : Config) (lenS : Word) (rs : List SplitRecord), (∀ r ∈ rs, r.Accepted c.timePolicy) →
    commandResult c .qsplit lenS (rs.flatMap recordWords) = .done (rs.flatMap (splitOutput c.roundTies))

/-- R212, R231, R234: how QSPLIT rejects what follows accepted records: a TAG other than 0 and 1, an exponent outside
[0, MAX_EXP], a T outside int32 under `TIME_POLICY = fault`, and an input that ends inside a FIELDS record. -/
def Obligations.QsplitRejections : Prop :=
  ∀ (c : Config) (lenS : Word) (rs : List SplitRecord) (rest : List Int) (t xm xe ym ye v : Int),
    (∀ r ∈ rs, r.Accepted c.timePolicy) →
    let before := rs.flatMap recordWords
    let n := before.length
    (∀ tag, tag ≠ 0 → tag ≠ 1 → commandResult c .qsplit lenS (before ++ tag :: rest) = .failed .malformedInput n) ∧
    (c.timePolicy = .fault → ¬ FitsS 32 t →
      commandResult c .qsplit lenS (before ++ 0 :: t :: rest) = .failed .rangeOverflow (n + 1)) ∧
    ((c.timePolicy = .fault → FitsS 32 t) → ¬ (0 ≤ xe ∧ xe ≤ 18) →
      commandResult c .qsplit lenS (before ++ 0 :: t :: xm :: xe :: rest) = .failed .malformedInput (n + 3)) ∧
    ((c.timePolicy = .fault → FitsS 32 t) → 0 ≤ xe → xe ≤ 18 → ¬ (0 ≤ ye ∧ ye ≤ 18) →
      commandResult c .qsplit lenS (before ++ 0 :: t :: xm :: xe :: ym :: ye :: rest) = .failed .malformedInput (n + 5)) ∧
    (SplitRecord.Accepted c.timePolicy (.fields t xm xe ym ye v) → ∀ k, 1 ≤ k → k ≤ 6 →
      commandResult c .qsplit lenS (before ++ (recordWords (.fields t xm xe ym ye v)).take k) = .failed .malformedInput (n + k))

/-- R213: what QSPLIT outputs at DONE is a list of channel records in the channel ranges. -/
def Obligations.QsplitOutputsLieInTheChannelRanges : Prop :=
  ∀ (c : Config) (lenS : Word) (es xs : List Int), commandResult c .qsplit lenS es = .done xs →
    ∃ rs : List ChannelRecord, (∀ r ∈ rs, r.InRange) ∧ xs = rs.flatMap channelWords

/-- R218, R111, R214: QJOIN on channel records in range emits `[0, T, X*625, 4, Y*625, 4, S]` for each; an input that ends inside a
record raises ChannelLengthMismatch at n, and an element outside its channel's range RangeOverflow at its index. -/
def Obligations.QjoinResult : Prop :=
  ∀ (c : Config) (lenS : Word) (rs : List ChannelRecord) (rest : List Int) (t x y v : Int), (∀ r ∈ rs, r.InRange) →
    let before := rs.flatMap channelWords
    commandResult c .qjoin lenS before =
      .done (rs.flatMap (fun r => [0, r.t, r.x * 625, 4, r.y * 625, 4, r.s])) ∧
    (ChannelRecord.InRange ⟨t, x, y, v⟩ → ∀ k, 1 ≤ k → k ≤ 3 →
      commandResult c .qjoin lenS (before ++ [t, x, y, v].take k) = .failed .channelLengthMismatch (4 * rs.length + k)) ∧
    (¬ FitsS 32 t → commandResult c .qjoin lenS (before ++ t :: rest) = .failed .rangeOverflow (4 * rs.length)) ∧
    (FitsS 32 t → ¬ FitsS 16 x →
      commandResult c .qjoin lenS (before ++ t :: x :: rest) = .failed .rangeOverflow (4 * rs.length + 1)) ∧
    (FitsS 32 t → FitsS 16 x → ¬ FitsS 16 y →
      commandResult c .qjoin lenS (before ++ t :: x :: y :: rest) = .failed .rangeOverflow (4 * rs.length + 2)) ∧
    (FitsS 32 t → FitsS 16 x → FitsS 16 y → ¬ (0 ≤ v ∧ v ≤ 255) →
      commandResult c .qjoin lenS (before ++ t :: x :: y :: v :: rest) = .failed .rangeOverflow (4 * rs.length + 3))

/-- R220: QSPLIT undoes QJOIN on channel records in range, under every parameter; hence for every input QSPLIT accepts, splitting
QJOIN of its output gives the same channels. -/
def Obligations.SplitUndoesJoin : Prop :=
  ∀ (c : Config) (lenS : Word),
    (∀ rs : List ChannelRecord, (∀ r ∈ rs, r.InRange) →
      ∃ xs, commandResult c .qjoin lenS (rs.flatMap channelWords) = .done xs ∧
        commandResult c .qsplit lenS xs = .done (rs.flatMap channelWords)) ∧
    (∀ es ys, commandResult c .qsplit lenS es = .done ys →
      ∃ xs, commandResult c .qjoin lenS ys = .done xs ∧ commandResult c .qsplit lenS xs = .done ys)
end

