-- ==== Sys2Proof/Laws/State.lean ====
section
/-! SUPPORT. What each update of the state leaves in each field, one lemma per field per update, so that no proof unfolds
a record update. -/
namespace Sys2Proof.Machine

@[simp] theorem raise_phase (k : ErrKind) (idx : Word) (s : State) : (raise k idx s).phase = .err := rfl
@[simp] theorem raise_opreg (k : ErrKind) (idx : Word) (s : State) : (raise k idx s).opreg = s.opreg := rfl
@[simp] theorem raise_len (k : ErrKind) (idx : Word) (s : State) : (raise k idx s).len = s.len := rfl
@[simp] theorem raise_lenS (k : ErrKind) (idx : Word) (s : State) : (raise k idx s).lenS = s.lenS := rfl
@[simp] theorem raise_inFifo (k : ErrKind) (idx : Word) (s : State) : (raise k idx s).inFifo = [] := rfl
@[simp] theorem raise_outFifo (k : ErrKind) (idx : Word) (s : State) : (raise k idx s).outFifo = [] := rfl
@[simp] theorem raise_pending (k : ErrKind) (idx : Word) (s : State) : (raise k idx s).pending = [] := rfl
@[simp] theorem raise_endFlag (k : ErrKind) (idx : Word) (s : State) : (raise k idx s).endFlag = s.endFlag := rfl
@[simp] theorem raise_fin (k : ErrKind) (idx : Word) (s : State) : (raise k idx s).fin = s.fin := rfl
@[simp] theorem raise_inCount (k : ErrKind) (idx : Word) (s : State) : (raise k idx s).inCount = s.inCount := rfl
@[simp] theorem raise_outCount (k : ErrKind) (idx : Word) (s : State) : (raise k idx s).outCount = s.outCount := rfl
@[simp] theorem raise_errcode (k : ErrKind) (idx : Word) (s : State) : (raise k idx s).errcode = some k := rfl
@[simp] theorem raise_errIndex (k : ErrKind) (idx : Word) (s : State) : (raise k idx s).errIndex = idx := rfl
@[simp] theorem raise_dp (k : ErrKind) (idx : Word) (s : State) : (raise k idx s).dp = none := rfl
@[simp] theorem raise_cfg (k : ErrKind) (idx : Word) (s : State) : (raise k idx s).cfg = s.cfg := rfl
@[simp] theorem raise_agenda (k : ErrKind) (idx : Word) (s : State) : (raise k idx s).agenda = s.agenda := rfl
@[simp] theorem raise_round (k : ErrKind) (idx : Word) (s : State) : (raise k idx s).round = s.round := rfl
@[simp] theorem raise_reads (k : ErrKind) (idx : Word) (s : State) : (raise k idx s).reads = s.reads := rfl

@[simp] theorem clear_phase (s : State) : (clear s).phase = .idle := rfl
@[simp] theorem clear_opreg (s : State) : (clear s).opreg = 0 := rfl
@[simp] theorem clear_len (s : State) : (clear s).len = s.len := rfl
@[simp] theorem clear_lenS (s : State) : (clear s).lenS = 0 := rfl
@[simp] theorem clear_inFifo (s : State) : (clear s).inFifo = [] := rfl
@[simp] theorem clear_outFifo (s : State) : (clear s).outFifo = [] := rfl
@[simp] theorem clear_pending (s : State) : (clear s).pending = [] := rfl
@[simp] theorem clear_endFlag (s : State) : (clear s).endFlag = false := rfl
@[simp] theorem clear_fin (s : State) : (clear s).fin = false := rfl
@[simp] theorem clear_inCount (s : State) : (clear s).inCount = 0 := rfl
@[simp] theorem clear_outCount (s : State) : (clear s).outCount = 0 := rfl
@[simp] theorem clear_errcode (s : State) : (clear s).errcode = none := rfl
@[simp] theorem clear_errIndex (s : State) : (clear s).errIndex = 0 := rfl
@[simp] theorem clear_dp (s : State) : (clear s).dp = none := rfl
@[simp] theorem clear_cfg (s : State) : (clear s).cfg = s.cfg := rfl
@[simp] theorem clear_agenda (s : State) : (clear s).agenda = s.agenda := rfl
@[simp] theorem clear_round (s : State) : (clear s).round = s.round := rfl
@[simp] theorem clear_reads (s : State) : (clear s).reads = s.reads := rfl

@[simp] theorem hardReset_phase (s : State) : (hardReset s).phase = .idle := rfl
@[simp] theorem hardReset_opreg (s : State) : (hardReset s).opreg = 0 := rfl
@[simp] theorem hardReset_len (s : State) : (hardReset s).len = 0 := rfl
@[simp] theorem hardReset_lenS (s : State) : (hardReset s).lenS = 0 := rfl
@[simp] theorem hardReset_inFifo (s : State) : (hardReset s).inFifo = [] := rfl
@[simp] theorem hardReset_outFifo (s : State) : (hardReset s).outFifo = [] := rfl
@[simp] theorem hardReset_pending (s : State) : (hardReset s).pending = [] := rfl
@[simp] theorem hardReset_endFlag (s : State) : (hardReset s).endFlag = false := rfl
@[simp] theorem hardReset_fin (s : State) : (hardReset s).fin = false := rfl
@[simp] theorem hardReset_inCount (s : State) : (hardReset s).inCount = 0 := rfl
@[simp] theorem hardReset_outCount (s : State) : (hardReset s).outCount = 0 := rfl
@[simp] theorem hardReset_errcode (s : State) : (hardReset s).errcode = none := rfl
@[simp] theorem hardReset_errIndex (s : State) : (hardReset s).errIndex = 0 := rfl
@[simp] theorem hardReset_dp (s : State) : (hardReset s).dp = none := rfl
@[simp] theorem hardReset_cfg (s : State) : (hardReset s).cfg = s.cfg := rfl
@[simp] theorem hardReset_agenda (s : State) : (hardReset s).agenda = s.agenda := rfl
@[simp] theorem hardReset_round (s : State) : (hardReset s).round = s.round := rfl
@[simp] theorem hardReset_reads (s : State) : (hardReset s).reads = s.reads := rfl

@[simp] theorem start_phase (op : BitVec 8) (init : Word → Datapath) (s : State) : (start op init s).phase = .run := rfl
@[simp] theorem start_opreg (op : BitVec 8) (init : Word → Datapath) (s : State) : (start op init s).opreg = op := rfl
@[simp] theorem start_len (op : BitVec 8) (init : Word → Datapath) (s : State) : (start op init s).len = s.len := rfl
@[simp] theorem start_lenS (op : BitVec 8) (init : Word → Datapath) (s : State) : (start op init s).lenS = s.len := rfl
@[simp] theorem start_inFifo (op : BitVec 8) (init : Word → Datapath) (s : State) : (start op init s).inFifo = [] := rfl
@[simp] theorem start_outFifo (op : BitVec 8) (init : Word → Datapath) (s : State) : (start op init s).outFifo = [] := rfl
@[simp] theorem start_pending (op : BitVec 8) (init : Word → Datapath) (s : State) : (start op init s).pending = [] := rfl
@[simp] theorem start_endFlag (op : BitVec 8) (init : Word → Datapath) (s : State) : (start op init s).endFlag = false := rfl
@[simp] theorem start_fin (op : BitVec 8) (init : Word → Datapath) (s : State) : (start op init s).fin = false := rfl
@[simp] theorem start_inCount (op : BitVec 8) (init : Word → Datapath) (s : State) : (start op init s).inCount = 0 := rfl
@[simp] theorem start_outCount (op : BitVec 8) (init : Word → Datapath) (s : State) : (start op init s).outCount = 0 := rfl
@[simp] theorem start_errcode (op : BitVec 8) (init : Word → Datapath) (s : State) : (start op init s).errcode = none := rfl
@[simp] theorem start_errIndex (op : BitVec 8) (init : Word → Datapath) (s : State) : (start op init s).errIndex = 0 := rfl
@[simp] theorem start_dp (op : BitVec 8) (init : Word → Datapath) (s : State) : (start op init s).dp = some (init s.len) := rfl
@[simp] theorem start_cfg (op : BitVec 8) (init : Word → Datapath) (s : State) : (start op init s).cfg = s.cfg := rfl
@[simp] theorem start_agenda (op : BitVec 8) (init : Word → Datapath) (s : State) : (start op init s).agenda = s.agenda := rfl
@[simp] theorem start_round (op : BitVec 8) (init : Word → Datapath) (s : State) : (start op init s).round = s.round := rfl
@[simp] theorem start_reads (op : BitVec 8) (init : Word → Datapath) (s : State) : (start op init s).reads = s.reads := rfl

@[simp] theorem respond_phase (off : Nat) (v : Word) (s : State) : (respond off v s).phase = s.phase := rfl
@[simp] theorem respond_opreg (off : Nat) (v : Word) (s : State) : (respond off v s).opreg = s.opreg := rfl
@[simp] theorem respond_len (off : Nat) (v : Word) (s : State) : (respond off v s).len = s.len := rfl
@[simp] theorem respond_lenS (off : Nat) (v : Word) (s : State) : (respond off v s).lenS = s.lenS := rfl
@[simp] theorem respond_inFifo (off : Nat) (v : Word) (s : State) : (respond off v s).inFifo = s.inFifo := rfl
@[simp] theorem respond_outFifo (off : Nat) (v : Word) (s : State) : (respond off v s).outFifo = s.outFifo := rfl
@[simp] theorem respond_pending (off : Nat) (v : Word) (s : State) : (respond off v s).pending = s.pending := rfl
@[simp] theorem respond_endFlag (off : Nat) (v : Word) (s : State) : (respond off v s).endFlag = s.endFlag := rfl
@[simp] theorem respond_fin (off : Nat) (v : Word) (s : State) : (respond off v s).fin = s.fin := rfl
@[simp] theorem respond_inCount (off : Nat) (v : Word) (s : State) : (respond off v s).inCount = s.inCount := rfl
@[simp] theorem respond_outCount (off : Nat) (v : Word) (s : State) : (respond off v s).outCount = s.outCount := rfl
@[simp] theorem respond_errcode (off : Nat) (v : Word) (s : State) : (respond off v s).errcode = s.errcode := rfl
@[simp] theorem respond_errIndex (off : Nat) (v : Word) (s : State) : (respond off v s).errIndex = s.errIndex := rfl
@[simp] theorem respond_dp (off : Nat) (v : Word) (s : State) : (respond off v s).dp = s.dp := rfl
@[simp] theorem respond_cfg (off : Nat) (v : Word) (s : State) : (respond off v s).cfg = s.cfg := rfl
@[simp] theorem respond_agenda (off : Nat) (v : Word) (s : State) : (respond off v s).agenda = s.agenda := rfl
@[simp] theorem respond_round (off : Nat) (v : Word) (s : State) : (respond off v s).round = s.round := rfl
@[simp] theorem respond_reads (off : Nat) (v : Word) (s : State) : (respond off v s).reads = s.reads ++ [⟨off, v⟩] := rfl

@[simp] theorem writeLen_phase (w : Word) (s : State) : (writeLen w s).phase = s.phase := rfl
@[simp] theorem writeLen_opreg (w : Word) (s : State) : (writeLen w s).opreg = s.opreg := rfl
@[simp] theorem writeLen_len (w : Word) (s : State) : (writeLen w s).len = w := rfl
@[simp] theorem writeLen_lenS (w : Word) (s : State) : (writeLen w s).lenS = s.lenS := rfl
@[simp] theorem writeLen_inFifo (w : Word) (s : State) : (writeLen w s).inFifo = s.inFifo := rfl
@[simp] theorem writeLen_outFifo (w : Word) (s : State) : (writeLen w s).outFifo = s.outFifo := rfl
@[simp] theorem writeLen_pending (w : Word) (s : State) : (writeLen w s).pending = s.pending := rfl
@[simp] theorem writeLen_endFlag (w : Word) (s : State) : (writeLen w s).endFlag = s.endFlag := rfl
@[simp] theorem writeLen_fin (w : Word) (s : State) : (writeLen w s).fin = s.fin := rfl
@[simp] theorem writeLen_inCount (w : Word) (s : State) : (writeLen w s).inCount = s.inCount := rfl
@[simp] theorem writeLen_outCount (w : Word) (s : State) : (writeLen w s).outCount = s.outCount := rfl
@[simp] theorem writeLen_errcode (w : Word) (s : State) : (writeLen w s).errcode = s.errcode := rfl
@[simp] theorem writeLen_errIndex (w : Word) (s : State) : (writeLen w s).errIndex = s.errIndex := rfl
@[simp] theorem writeLen_dp (w : Word) (s : State) : (writeLen w s).dp = s.dp := rfl
@[simp] theorem writeLen_cfg (w : Word) (s : State) : (writeLen w s).cfg = s.cfg := rfl
@[simp] theorem writeLen_agenda (w : Word) (s : State) : (writeLen w s).agenda = s.agenda := rfl
@[simp] theorem writeLen_round (w : Word) (s : State) : (writeLen w s).round = s.round := rfl
@[simp] theorem writeLen_reads (w : Word) (s : State) : (writeLen w s).reads = s.reads := rfl

@[simp] theorem withCommandWord_phase (w : Word) (s : State) : (withCommandWord w s).phase = s.phase := rfl
@[simp] theorem withCommandWord_opreg (w : Word) (s : State) : (withCommandWord w s).opreg = s.opreg := rfl
@[simp] theorem withCommandWord_len (w : Word) (s : State) : (withCommandWord w s).len = s.len := rfl
@[simp] theorem withCommandWord_lenS (w : Word) (s : State) : (withCommandWord w s).lenS = s.lenS := rfl
@[simp] theorem withCommandWord_inFifo (w : Word) (s : State) : (withCommandWord w s).inFifo = s.inFifo := rfl
@[simp] theorem withCommandWord_outFifo (w : Word) (s : State) : (withCommandWord w s).outFifo = s.outFifo := rfl
@[simp] theorem withCommandWord_pending (w : Word) (s : State) : (withCommandWord w s).pending = s.pending := rfl
@[simp] theorem withCommandWord_endFlag (w : Word) (s : State) : (withCommandWord w s).endFlag = s.endFlag := rfl
@[simp] theorem withCommandWord_fin (w : Word) (s : State) : (withCommandWord w s).fin = s.fin := rfl
@[simp] theorem withCommandWord_inCount (w : Word) (s : State) : (withCommandWord w s).inCount = s.inCount := rfl
@[simp] theorem withCommandWord_outCount (w : Word) (s : State) : (withCommandWord w s).outCount = s.outCount := rfl
@[simp] theorem withCommandWord_errcode (w : Word) (s : State) : (withCommandWord w s).errcode = s.errcode := rfl
@[simp] theorem withCommandWord_errIndex (w : Word) (s : State) : (withCommandWord w s).errIndex = s.errIndex := rfl
@[simp] theorem withCommandWord_dp (w : Word) (s : State) : (withCommandWord w s).dp = s.dp := rfl
@[simp] theorem withCommandWord_cfg (w : Word) (s : State) : (withCommandWord w s).cfg = s.cfg := rfl
@[simp] theorem withCommandWord_agenda (w : Word) (s : State) : (withCommandWord w s).agenda = .access (.write64 0x00 w) :: s.agenda := rfl
@[simp] theorem withCommandWord_round (w : Word) (s : State) : (withCommandWord w s).round = s.round := rfl
@[simp] theorem withCommandWord_reads (w : Word) (s : State) : (withCommandWord w s).reads = s.reads := rfl

@[simp] theorem refill_phase (s : State) : (refill s).phase = s.phase := rfl
@[simp] theorem refill_opreg (s : State) : (refill s).opreg = s.opreg := rfl
@[simp] theorem refill_len (s : State) : (refill s).len = s.len := rfl
@[simp] theorem refill_lenS (s : State) : (refill s).lenS = s.lenS := rfl
@[simp] theorem refill_inFifo (s : State) : (refill s).inFifo = s.inFifo := rfl
@[simp] theorem refill_outFifo (s : State) : (refill s).outFifo = s.outFifo := rfl
@[simp] theorem refill_pending (s : State) : (refill s).pending = s.pending := rfl
@[simp] theorem refill_endFlag (s : State) : (refill s).endFlag = s.endFlag := rfl
@[simp] theorem refill_fin (s : State) : (refill s).fin = s.fin := rfl
@[simp] theorem refill_inCount (s : State) : (refill s).inCount = s.inCount := rfl
@[simp] theorem refill_outCount (s : State) : (refill s).outCount = s.outCount := rfl
@[simp] theorem refill_errcode (s : State) : (refill s).errcode = s.errcode := rfl
@[simp] theorem refill_errIndex (s : State) : (refill s).errIndex = s.errIndex := rfl
@[simp] theorem refill_dp (s : State) : (refill s).dp = s.dp := rfl
@[simp] theorem refill_cfg (s : State) : (refill s).cfg = s.cfg := rfl
@[simp] theorem refill_reads (s : State) : (refill s).reads = s.reads := rfl
@[simp] theorem refill_agenda (s : State) : (refill s).agenda = Config.environment s.round := rfl
@[simp] theorem refill_round (s : State) : (refill s).round = s.round + 1 := rfl

end Sys2Proof.Machine
end

