-- ==== Sys2Proof/Laws/Moves.lean ====
section
/-! SUPPORT. Once for each shared operation: everything it can do. `EngineMove`, `HostMove` and `Move` list the next states
of an engine turn, a host access and a step; the lemmas `engineTurn_move`, `hostAccess_move` and `step_move` say that
there is no other. A proof about a step takes cases on them instead of unfolding it. -/
namespace Sys2Proof.Machine

theorem decodeOp_eq_some {op : BitVec 8} {i : Instr} : decodeOp op = some i ↔ op = opcode i := by
  constructor
  · intro h
    unfold decodeOp at h
    split at h <;> simp at h <;> subst h <;> apply BitVec.eq_of_toNat_eq <;> simpa [opcode]
  · rintro rfl; cases i <;> rfl

@[simp] theorem decodeOp_opcode (i : Instr) : decodeOp (opcode i) = some i := decodeOp_eq_some.mpr rfl

theorem opcode_injective {i j : Instr} (h : opcode i = opcode j) : i = j := by
  have h' : decodeOp (opcode i) = some j := h ▸ decodeOp_opcode j
  simpa using h'

/-- Every command but CLR is `startCommand` with its opcode and its init function. -/
theorem exec_eq_startCommand {i : Instr} (hi : i ≠ .clr) (s : State) :
    ∃ init : Word → Datapath, (∀ w, initOf i w = some (init w)) ∧ exec i s = startCommand (opcode i) init s := by
  cases i
  case clr => exact absurd rfl hi
  all_goals exact ⟨_, fun _ => rfl, rfl⟩

/-- All that `startCommand` can do: ignored in ERR, ProtocolError while busy, else the command starts. -/
theorem startCommand_cases {op : BitVec 8} {init : Word → Datapath} (s : State) :
    (s.phase = .err ∧ startCommand op init s = .next s) ∨
    (Busy s ∧ startCommand op init s = .next (raise .protocolError s.inCount s)) ∨
    (Startable s ∧ startCommand op init s = .next (start op init s)) := by
  unfold startCommand
  by_cases he : s.phase = .err
  · simp [he]
  · by_cases hb : s.phase = .run ∨ (s.phase = .done ∧ s.outFifo ≠ [])
    · exact .inr (.inl ⟨hb, by rw [if_neg he, if_pos hb]⟩)
    · refine .inr (.inr ⟨?_, by rw [if_neg he, if_neg hb]⟩)
      cases hp : s.phase <;> simp_all [Startable]

/-- An error of a command's own functions is one of the kinds of its file, never one of the two of the interface
(60_exceptions.md R237, R238). -/
def ErrKind.OfCommand (k : ErrKind) : Prop := k ≠ .illegalCommand ∧ k ≠ .protocolError

theorem checkByte_error {e : Int} {k : ErrKind} (h : checkByte e = .error k) : k.OfCommand := by
  unfold checkByte at h; split at h <;> simp at h; subst h; simp [ErrKind.OfCommand]

theorem checkSigned_error {n : Nat} {e : Int} {k : ErrKind} (h : checkSigned n e = .error k) : k.OfCommand := by
  unfold checkSigned at h; split at h <;> simp at h; subst h; simp [ErrKind.OfCommand]

theorem checkU16_error {e : Int} {k : ErrKind} (h : checkU16 e = .error k) : k.OfCommand := by
  unfold checkU16 at h; split at h <;> simp at h; subst h; simp [ErrKind.OfCommand]

theorem checkState_error {e : Int} {k : ErrKind} (h : checkState e = .error k) : k.OfCommand := by
  unfold checkState at h; split at h <;> simp at h; subst h; simp [ErrKind.OfCommand]

theorem checkExponent_error {e : Int} {k : ErrKind} (h : checkExponent e = .error k) : k.OfCommand := by
  unfold checkExponent at h; split at h <;> simp at h; subst h; simp [ErrKind.OfCommand]

theorem dfit_error {p : DeltaPolicy} {d : Int} {k : ErrKind} (h : dfit p d = .error k) : k.OfCommand := by
  unfold dfit at h; split at h <;> (try split at h) <;> simp at h; subst h; simp [ErrKind.OfCommand]

theorem tconv_error {p : TimePolicy} {t : Int} {k : ErrKind} (h : tconv p t = .error k) : k.OfCommand := by
  unfold tconv at h; split at h <;> (try split at h) <;> simp at h; subst h; simp [ErrKind.OfCommand]

theorem emitTriple_error {g l v : Nat} {k : ErrKind} (h : emitTriple g l v = .error k) : k.OfCommand := by
  unfold emitTriple at h; split at h <;> simp at h; subst h; simp [ErrKind.OfCommand]

/-- What `check` answers when it answers an error. -/
theorem check_eq_error {α β : Type} {r : Except ErrKind α} {f : α → Reply β} {k : ErrKind} (h : check r f = .error k) :
    r = .error k ∨ ∃ a, r = .ok a ∧ f a = .error k := by
  cases r with
  | error j => exact .inl (by simpa [check] using h)
  | ok a => exact .inr ⟨a, rfl, h⟩

/-- What `check` answers when it answers a result. -/
theorem check_eq_ok {α β : Type} {r : Except ErrKind α} {f : α → Reply β} {b : β} (h : check r f = .ok b) :
    ∃ a, r = .ok a ∧ f a = .ok b := by
  cases r with
  | error j => simp [check] at h
  | ok a => exact ⟨a, rfl, h⟩

theorem check_eq_mismatch {α β : Type} {r : Except ErrKind α} {f : α → Reply β} (h : check r f = .mismatch) :
    ∃ a, r = .ok a ∧ f a = .mismatch := by
  cases r with
  | error j => simp [check] at h
  | ok a => exact ⟨a, rfl, h⟩

theorem consumeOf_error {c : Config} {i : Instr} {d : Datapath} {e : Int} {n : Nat} {k : ErrKind}
    (h : consumeOf c i d e n = .error k) : k.OfCommand := by
  cases i <;> simp only [consumeOf] at h
  case clr => cases h
  case vpack16 | vpack32 =>
    first | unfold vpack16Consume at h | unfold vpack32Consume at h
    split at h
    · rcases check_eq_error h with h | ⟨_, _, h⟩
      · exact checkSigned_error h
      · cases h
    · cases h
  case vunpack16 | vunpack32 =>
    first | unfold vunpack16Consume at h | unfold vunpack32Consume at h
    split at h
    · rcases check_eq_error h with h | ⟨_, _, h⟩
      · exact checkByte_error h
      · cases h
    · cases h
  case dpack =>
    unfold dpackConsume at h
    split at h
    · rcases check_eq_error h with h | ⟨_, _, h⟩
      · exact checkSigned_error h
      · rcases check_eq_error h with h | ⟨_, _, h⟩
        · exact dfit_error h
        · cases h
    · cases h
  case dunpack =>
    unfold dunpackConsume at h
    split at h
    · rcases check_eq_error h with h | ⟨_, _, h⟩
      · exact checkByte_error h
      · split at h
        · cases h
        · rcases check_eq_error h with h | ⟨_, _, h⟩
          · exact dfit_error h
          · cases h
    · cases h
  case rleenc =>
    unfold rleencConsume at h
    split at h
    · rcases check_eq_error h with h | ⟨_, _, h⟩
      · exact checkState_error h
      · unfold encodeState at h
        split at h
        · split at h
          · cases h
          · rcases check_eq_error h with h | ⟨_, _, h⟩
            · exact emitTriple_error h
            · split at h <;> cases h
        · split at h <;> cases h
    · cases h
  case rledec =>
    unfold rledecConsume at h
    split at h
    · rcases check_eq_error h with h | ⟨_, _, h⟩
      · exact checkU16_error h
      · unfold decodeTriple at h
        split at h
        · cases h
        · split at h
          · cases h
          · split at h
            · cases h; simp [ErrKind.OfCommand]
            · split at h
              · cases h; simp [ErrKind.OfCommand]
              · cases h
    · cases h
  case qsplit =>
    unfold qsplitConsume at h
    split at h
    · split at h
      · unfold splitTag at h
        split at h
        · cases h
        · split at h
          · cases h
          · cases h; simp [ErrKind.OfCommand]
      · rcases check_eq_error h with h | ⟨_, _, h⟩
        · exact tconv_error h
        · cases h
      · cases h
      · rcases check_eq_error h with h | ⟨_, _, h⟩
        · exact checkExponent_error h
        · cases h
      · cases h
      · rcases check_eq_error h with h | ⟨_, _, h⟩
        · exact checkExponent_error h
        · cases h
      · cases h
    · cases h
  case qjoin =>
    unfold qjoinConsume at h
    split at h
    · split at h
      all_goals
        rcases check_eq_error h with h | ⟨_, _, h⟩
        · first | exact checkSigned_error h | exact checkState_error h
        · cases h
    · cases h

theorem finishOf_error {i : Instr} {d : Datapath} {n : Nat} {k : ErrKind} (h : finishOf i d n = .error k) :
    k.OfCommand := by
  cases i <;> simp only [finishOf] at h
  case clr => cases h
  case vpack16 => unfold vpack16Finish at h; split at h <;> cases h
  case vpack32 => unfold vpack32Finish at h; split at h <;> cases h
  case vunpack16 | vunpack32 | dunpack =>
    first | unfold vunpack16Finish at h | unfold vunpack32Finish at h | unfold dunpackFinish at h
    split at h
    · unfold atCodeBoundary at h
      split at h <;> cases h
      simp [ErrKind.OfCommand]
    · cases h
  case dpack =>
    unfold dpackFinish at h
    split at h
    · split at h <;> cases h
      simp [ErrKind.OfCommand]
    · cases h
  case rleenc =>
    unfold rleencFinish at h
    split at h
    · split at h
      · rcases check_eq_error h with h | ⟨_, _, h⟩
        · exact emitTriple_error h
        · cases h
      · cases h
    · cases h
  case rledec =>
    unfold rledecFinish at h
    split at h
    · split at h <;> cases h
      simp [ErrKind.OfCommand]
    · cases h
  case qsplit =>
    unfold qsplitFinish at h
    split at h
    · split at h <;> cases h
      simp [ErrKind.OfCommand]
    · cases h
  case qjoin =>
    unfold qjoinFinish at h
    split at h
    · split at h <;> cases h
      simp [ErrKind.OfCommand]
    · cases h

/-- The next states of one engine turn. -/
inductive EngineMove (s : State) : State → Prop where
  /-- No engine step is enabled. -/
  | wait : ¬ TransferEnabled s → ¬ ConsumeEnabled s → ¬ FinishEnabled s → ¬ CompleteEnabled s → EngineMove s s
  /-- An engine step raises an error at IN_COUNT. -/
  | error (k : ErrKind) : s.phase = .run → k.OfCommand → EngineMove s (raise k s.inCount s)
  | transfer (w : Word) (rest : List Word) : TransferEnabled s → s.pending = w :: rest → s.outCount ≠ countMax →
      EngineMove s { s with outFifo := s.outFifo ++ [w], pending := rest, outCount := s.outCount + 1 }
  | consume (w : Word) (rest : List Word) (d : Datapath) (outs : List Int) : ConsumeEnabled s → s.inFifo = w :: rest →
      s.inCount ≠ countMax → consumeRunning s (elementValue w) = .ok (d, outs) →
      EngineMove s { s with
        inFifo := rest, dp := some d, pending := s.pending ++ outs.map elementWord, inCount := s.inCount + 1 }
  | finish (outs : List Int) : FinishEnabled s → finishRunning s = .ok outs →
      EngineMove s { s with pending := s.pending ++ outs.map elementWord, fin := true }
  | complete : CompleteEnabled s → EngineMove s { s with phase := .done }

/-- All that an engine turn can do. -/
theorem engineTurn_move {s t : State} (h : engineTurn s = .next t) : EngineMove s t := by
  unfold engineTurn at h
  split_ifs at h with h1 h2 h3 h4
  · unfold transferStep at h
    split at h
    · simp_all
    · rename_i w rest hw
      split_ifs at h with hc
      · cases h; exact .error _ h1.1 (by simp [ErrKind.OfCommand])
      · cases h; exact .transfer w rest h1 hw hc
  · unfold consumeStep at h
    split at h
    · simp_all
    · rename_i w rest hw
      split_ifs at h with hc
      · cases h; exact .error _ h2.1 (by simp [ErrKind.OfCommand])
      · split at h
        · rename_i d outs hr; cases h; exact .consume w rest d outs h2 hw hc hr
        · rename_i k hr
          cases h
          refine .error k h2.1 ?_
          unfold consumeRunning at hr
          split at hr
          · exact consumeOf_error hr
          · cases hr
        · cases h
  · unfold finishStep at h
    split at h
    · rename_i outs hr; cases h; exact .finish outs h3 hr
    · rename_i k hr
      cases h
      refine .error k h3.1 ?_
      unfold finishRunning at hr
      split at hr
      · exact finishOf_error hr
      · cases hr
    · cases h
  · cases h; exact .complete h4
  · cases h; exact .wait h1 h2 h3 h4

theorem engineTurn_not_refused (s : State) (r : Refusal) : engineTurn s ≠ .refused r := by
  unfold engineTurn transferStep consumeStep finishStep completeStep
  intro h
  split_ifs at h <;> (try split at h) <;> (try split at h) <;> cases h

/-- The next states of one host access. -/
inductive HostMove (a : Access) (s : State) : State → Prop where
  /-- The access is ignored. -/
  | ignored : HostMove a s s
  /-- The host reads v at the offset; nothing else changes. -/
  | read (v : Word) : a.dir = .read → HostMove a s (respond a.offset v s)
  | pop (w : Word) (rest : List Word) : a.dir = .read → a.offset = 0x28 → s.outFifo = w :: rest →
      HostMove a s (respond 0x28 w { s with outFifo := rest })
  /-- An OUT_DATA read with OUTFIFO empty in RUN or DONE. -/
  | popError : a.dir = .read → a.offset = 0x28 → s.outFifo = [] → s.phase = .run ∨ s.phase = .done →
      HostMove a s (respond 0x28 0 (raise .protocolError s.inCount s))
  | clr : a.dir = .write → a.offset = 0x00 → a.data = encode .clr → HostMove a s (clear s)
  | start (i : Instr) (init : Word → Datapath) : a.dir = .write → a.offset = 0x00 → a.data = encode i → i ≠ .clr →
      (∀ w, initOf i w = some (init w)) → Startable s → HostMove a s (start (opcode i) init s)
  | illegal : a.dir = .write → a.offset = 0x00 → s.phase ≠ .err → HostMove a s (raise .illegalCommand s.inCount s)
  | protocol : a.dir = .write → s.phase ≠ .err → HostMove a s (raise .protocolError s.inCount s)
  | len : a.dir = .write → a.offset = 0x10 → HostMove a s (writeLen a.data s)
  | push : a.dir = .write → a.offset = 0x18 → s.phase = .run → s.endFlag = false → s.inFifo.length ≠ s.cfg.inDepth →
      HostMove a s { s with inFifo := s.inFifo ++ [a.data] }
  | endInput : a.dir = .write → a.offset = 0x20 → s.phase = .run → s.endFlag = false →
      HostMove a s { s with endFlag := true }

theorem word_eq_of_fields {w v : Word} (h1 : opField w = opField v) (h2 : reservedField w = reservedField v) : w = v := by
  apply BitVec.eq_of_getLsbD_eq
  intro j hj
  by_cases h : j < 8
  · have := congrArg (fun x => x.getLsbD j) h1
    simpa [opField, h] using this
  · have := congrArg (fun x => x.getLsbD (j - 8)) h2
    have h8 : 8 + (j - 8) = j := by omega
    have h56 : j - 8 < 56 := by omega
    simpa [reservedField, h56, h8] using this

/-- A word that decodes is the encoding of what it decodes to. -/
theorem eq_encode_of_decode {w : Word} {i : Instr} (h : decode w = .ok i) : w = encode i := by
  have he : reservedField (encode i) = 0 ∧ opField (encode i) = opcode i := by cases i <;> decide
  unfold decode at h
  split at h
  · cases h
  · rename_i hr
    split at h
    · rename_i j hj
      cases h
      rw [decodeOp_eq_some] at hj
      apply word_eq_of_fields
      · rw [hj, he.2]
      · rw [he.1]; simpa using hr
    · cases h

/-- All that a host access can do when it has a next state. -/
theorem hostAccess_move {a : Access} {s t : State} (h : hostAccess a s = .next t) : HostMove a s t := by
  unfold hostAccess at h
  split_ifs at h
  split at h
  · rename_i hd
    unfold busWrite at h
    split at h
    · rename_i ho
      unfold writeCmd at h
      split at h
      · rename_i i hi
        have hw := eq_encode_of_decode hi
        by_cases hc : i = .clr
        · subst hc; cases h; exact .clr hd ho hw
        · obtain ⟨init, hinit, he⟩ := exec_eq_startCommand hc s
          rw [he] at h
          rcases startCommand_cases (op := opcode i) (init := init) s with ⟨_, h'⟩ | ⟨hb, h'⟩ | ⟨hs, h'⟩ <;>
            rw [h'] at h <;> cases h
          · exact .ignored
          · exact .protocol hd (by rcases hb with hb | hb <;> simp [hb])
          · exact .start i init hd ho hw hc hinit hs
      · split_ifs at h with hp <;> cases h
        · exact .ignored
        · exact .illegal hd ho hp
    · rename_i ho; cases h; exact .len hd ho
    · rename_i ho
      cases h
      unfold writeInData
      split_ifs with h1 h2
      · exact .ignored
      · exact .protocol hd h1
      · simp only [not_or, ne_eq, not_not] at h2
        exact .push hd ho h2.1 (by simpa using h2.2.1) h2.2.2
    · rename_i ho
      cases h
      unfold writeInEnd
      split_ifs with h1 h2
      · exact .ignored
      · exact .protocol hd h1
      · simp only [not_or, ne_eq, not_not] at h2
        exact .endInput hd ho h2.1 (by simpa using h2.2)
    · cases h; exact .ignored
  · rename_i hd
    unfold busRead at h
    split at h
    · rename_i ho
      cases h
      unfold readOutData
      split
      · rename_i w rest hw; exact .pop w rest hd ho hw
      · rename_i hw
        split_ifs with hp
        · have := HostMove.read (s := s) 0 hd
          rwa [ho] at this
        · refine .popError hd ho hw ?_
          cases hq : s.phase <;> simp_all
    · cases h; exact .read _ hd

/-- The next states of a step. -/
inductive Move (s : State) : State → Prop where
  | last (t : State) : s.agenda = [] → EngineMove (refill s) t → Move s t
  | engine (rest : List Turn) (t : State) : s.agenda = .engine :: rest → EngineMove { s with agenda := rest } t → Move s t
  | reset (rest : List Turn) : s.agenda = .reset :: rest → Move s (hardReset { s with agenda := rest })
  | host (a : Access) (rest : List Turn) (t : State) : s.agenda = .access a :: rest →
      HostMove a { s with agenda := rest } t → Move s t

/-- All that a step can do when it has a next state. -/
theorem step_move {s t : State} (h : step s = .next t) : Move s t := by
  unfold step takeTurn at h
  split at h
  · rename_i ha; exact .last t ha (engineTurn_move h)
  · rename_i rest ha; exact .engine rest t ha (engineTurn_move h)
  · rename_i rest ha; cases h; exact .reset rest ha
  · rename_i a rest ha; exact .host a rest t ha (hostAccess_move h)

@[simp] theorem runSteps_zero (s : State) : runSteps 0 s = .next s := rfl

/-- A run of k + 1 steps is a step and a run of k. -/
theorem runSteps_succ (k : Nat) (s : State) : runSteps (k + 1) s =
    match step s with
    | .next t => runSteps k t
    | .fault f => .fault f
    | .refused r => .refused r := by
  refine (Host.Core.run.eq_2 Sys2Proof.core s k).trans ?_
  have h : Sys2Proof.core.step s = step s := rfl
  generalize Sys2Proof.core.step s = o at h
  subst h
  cases step s <;> rfl

/-- A run that starts with a step to t goes on from t. -/
theorem runSteps_succ_of_step {s t : State} (h : step s = .next t) (k : Nat) : runSteps (k + 1) s = runSteps k t := by
  rw [runSteps_succ, h]

/-- A run of k + 1 steps that has a next state began with a step that has one. -/
theorem exists_step_of_runSteps {k : Nat} {s u : State} (h : runSteps (k + 1) s = .next u) :
    ∃ t, step s = .next t ∧ runSteps k t = .next u := by
  rw [runSteps_succ] at h
  split at h
  · exact ⟨_, by assumption, h⟩
  · cases h
  · cases h

end Sys2Proof.Machine
end

