-- ==== Sys2Proof/Laws/Commands.lean ====
section
/-! SUPPORT. Once for each shared operation of the command functions: what it has answered when it answers a result. A
proof about a consume or finish function cites these and the lemmas on `check` instead of unfolding the operation. -/
namespace Sys2Proof.Machine

/-! ### Operand classes (Operands.lean) -/

theorem checkSigned_ok {n : Nat} {e v : Int} (h : checkSigned n e = .ok v) : v = e ∧ FitsS n e := by
  unfold checkSigned at h; split at h <;> simp at h; exact ⟨h.symm, by assumption⟩

theorem checkByte_ok {e : Int} {b : Nat} (h : checkByte e = .ok b) : b = byte e ∧ -128 ≤ e ∧ e ≤ 255 := by
  unfold checkByte at h; split at h <;> simp at h; exact ⟨h.symm, by assumption⟩

theorem checkState_ok {e : Int} {v : Nat} (h : checkState e = .ok v) : (v : Int) = e ∧ v ≤ 255 := by
  unfold checkState at h; split at h <;> simp at h; omega

theorem checkU16_ok {e : Int} {v : Nat} (h : checkU16 e = .ok v) : (v : Int) = e ∧ v ≤ 65535 := by
  unfold checkU16 at h; split at h <;> simp at h; rename_i h'; simp [FitsU] at h'; omega

theorem checkExponent_ok {e v : Int} (h : checkExponent e = .ok v) : v = e ∧ 0 ≤ e ∧ e ≤ maxExp := by
  unfold checkExponent at h; split at h <;> simp at h; exact ⟨h.symm, by assumption⟩

theorem checkSigned_of_fits {n : Nat} {e : Int} (h : FitsS n e) : checkSigned n e = .ok e := by
  unfold checkSigned; rw [if_pos h]

theorem checkState_of_range {v : Nat} (h : v ≤ 255) : checkState (v : Int) = .ok v := by
  unfold checkState; rw [if_pos (by omega)]; simp

theorem checkU16_of_range {v : Nat} (h : v ≤ 65535) : checkU16 (v : Int) = .ok v := by
  simp only [checkU16, FitsU]; rw [if_pos (by omega)]; simp

theorem naturals_append (a b : List Nat) : naturals (a ++ b) = naturals a ++ naturals b := by simp [naturals]

/-! ### Arithmetic (Arith.lean) and the range policies -/

theorem byte_lt (v : Int) : byte v < 256 := by unfold byte; omega

theorem byte_natCast {b : Nat} (h : b < 256) : byte (b : Int) = b := by unfold byte; omega

theorem wrap16_fits (v : Int) : FitsS 16 (wrap 16 v) := by
  simp only [FitsS, wrap, sext]; split <;> omega

theorem wrap16_emod (v : Int) : wrap 16 v % 65536 = v % 65536 := by
  simp only [wrap, sext]; split_ifs <;> omega

theorem dfit_ok {p : DeltaPolicy} {d v : Int} (h : dfit p d = .ok v) :
    FitsS 16 v ∧ v % 65536 = d % 65536 := by
  unfold dfit at h; split at h
  · simp at h; subst h; exact ⟨by assumption, rfl⟩
  · split at h <;> simp at h; subst h; exact ⟨wrap16_fits d, wrap16_emod d⟩

theorem tconv_ok {p : TimePolicy} {t v : Int} (h : tconv p t = .ok v) : FitsS 32 v := by
  unfold tconv at h; split at h
  · simp at h; subst h; assumption
  · split at h <;> simp at h; subst h; simp only [clamp, FitsS]; split_ifs <;> omega

theorem emitTriple_ok {g l v : Nat} {outs : List Int} (h : emitTriple g l v = .ok outs) :
    g ≤ 65535 ∧ l ≤ 65535 ∧ outs = naturals [g, l, v] := by
  unfold emitTriple at h; split at h <;> simp at h
  rename_i hr; exact ⟨hr.1, hr.2, h.symm⟩

@[simp] theorem expand_length (g l v : Nat) : (expand g l v).length = g + l := by simp [expand]

/-! ### The varint decoder (Varint.lean) -/

/-- One step of the decoder keeps its registers in their widths (10_state.md R48, 41_varint.md R151). -/
theorem vdecStep_ok {w b : Nat} {r r' : VDec} {v : Option Int} (hw : w = 16 ∨ w = 32) (hb : b < 256) (hr : r.Ok w)
    (h : vdecStep w r b = (r', v)) : r'.Ok w := by
  unfold vdecStep at h
  split at h
  · split at h <;> cases h <;> rcases hw with rfl | rfl <;> simp [VDec.Ok, payloadBytes]
  · rename_i he
    simp at he
    split at h <;> cases h
    · rename_i hk
      refine ⟨by simp, fun _ => ⟨by dsimp; omega, ?_⟩⟩
      obtain ⟨h1, h2⟩ := hr.2 he
      dsimp
      have : 2 ^ (8 * (r.k + 1)) = 256 * 2 ^ (8 * r.k) := by rw [Nat.mul_add, pow_add]; norm_num; ring
      rw [this]
      nlinarith [Nat.one_le_two_pow (n := 8 * r.k)]
    · simp [VDec.Ok]

/-- Decoding a stream in two parts. -/
theorem decodeStream_append (w : Nat) (a b : List Nat) (r : VDec) :
    decodeStream w r (a ++ b) =
      ((decodeStream w (decodeStream w r a).1 b).1,
        (decodeStream w r a).2 ++ (decodeStream w (decodeStream w r a).1 b).2) := by
  induction a generalizing r with
  | nil => simp [decodeStream]
  | cons x a ih => simp [decodeStream, ih]

theorem atCodeBoundary_ok {r : VDec} {outs : List Int} (h : atCodeBoundary r = .ok outs) : r.esc = false ∧ outs = [] := by
  unfold atCodeBoundary at h; split at h <;> simp at h
  rename_i hr; exact ⟨by simpa using hr, h⟩

/-! ### Counters and the fold (Engine.lean) -/

theorem eq_countMax_iff (w : Word) : w = countMax ↔ w.toNat = 2 ^ 64 - 1 := by
  constructor
  · rintro rfl; decide
  · intro h; apply BitVec.eq_of_toNat_eq; rw [h]; decide

/-- A counter below its end goes up by exactly one (10_state.md R42). -/
theorem toNat_add_one {w : Word} (h : w ≠ countMax) : (w + 1).toNat = w.toNat + 1 := by
  rw [ne_eq, eq_countMax_iff] at h
  have := w.isLt
  rw [BitVec.toNat_add]; simp; omega

@[simp] theorem after_done (a b : List Int) : (CommandResult.done b).after a = .done (a ++ b) := rfl
@[simp] theorem after_failed (a : List Int) (k : ErrKind) (n : Nat) : (CommandResult.failed k n).after a = .failed k n := rfl
@[simp] theorem after_mismatch (a : List Int) : CommandResult.mismatch.after a = .mismatch := rfl

@[simp] theorem after_nil (r : CommandResult) : r.after [] = r := by cases r <;> rfl

theorem after_after (r : CommandResult) (a b : List Int) : (r.after b).after a = r.after (a ++ b) := by
  cases r <;> simp

/-! ### Blocks (ClosedForms.lean) -/

theorem differences_length (prev : Int) (vs : List Int) : (differences prev vs).length = vs.length := by
  induction vs generalizing prev with
  | nil => rfl
  | cons v vs ih => simp [differences, ih]

/-- The blocks of a list, expanded again, are the list (43_rle.md R185). -/
theorem blocks_expand (xs : List Nat) : (blocks xs).flatMap (fun p => List.replicate p.2 p.1) = xs := by
  induction xs with
  | nil => rfl
  | cons x xs ih =>
    simp only [blocks]
    split
    · rename_i v n rest h
      rw [h] at ih
      split
      · rename_i hx; subst hx; rw [← ih]; simp [List.replicate_succ]
      · rw [← ih]; simp
    · rename_i h
      rw [h] at ih; simpa using ih

end Sys2Proof.Machine
end

