-- ==== Sys2Proof/Laws/PerInstr.lean ====
section
/-! SUPPORT. A family of statements about every command as syntax: it is well formed, the table reads its opcode back, and
its command word has no reserved bit set (30_encoding.md R90). -/
namespace Sys2Proof.Laws.CommandWord

/-- The command is well formed, its opcode selects it in the table, and its word is that opcode with bits [63:8] clear. -/
def Statement (i : Instr) : Prop :=
  i.WellFormed ∧ decodeOp (opcode i) = some i ∧ reservedField (encode i) = 0 ∧ opField (encode i) = opcode i

theorem clr : Statement .clr := by unfold Statement; decide
theorem vpack16 : Statement .vpack16 := by unfold Statement; decide
theorem vpack32 : Statement .vpack32 := by unfold Statement; decide
theorem vunpack16 : Statement .vunpack16 := by unfold Statement; decide
theorem vunpack32 : Statement .vunpack32 := by unfold Statement; decide
theorem dpack : Statement .dpack := by unfold Statement; decide
theorem dunpack : Statement .dunpack := by unfold Statement; decide
theorem rleenc : Statement .rleenc := by unfold Statement; decide
theorem rledec : Statement .rledec := by unfold Statement; decide
theorem qsplit : Statement .qsplit := by unfold Statement; decide
theorem qjoin : Statement .qjoin := by unfold Statement; decide

end Sys2Proof.Laws.CommandWord
end

