-- ==== Sys2Proof/Tests/Slice0.lean ====
section
/-! SUPPORT. The author's own tests. Expected values are the spec's: the opcode table (30_encoding.md R90) for decoding,
95_test_vectors.md for the commands (the vector is named in each comment), the rules for the rest. The theorems named
test_witness_… show, for each statement of Obligations.lean that has hypotheses, concrete values that meet them all. -/
namespace Sys2Proof.Tests
open Sys2Proof Sys2Proof.Machine

/-! ### Helpers -/

/-- The state after reset with these turns to come. -/
def atReset (turns : List Turn) : State := { State.reset with agenda := turns }

/-- A state in which the command i runs with the record d, this input in INFIFO and these turns to come; unless said otherwise
the engine has the next turn. -/
def running (i : Instr) (d : Datapath) (input : List Word) (turns : List Turn := [.engine]) : State :=
  { State.reset with phase := .run, opreg := opcode i, dp := some d, inFifo := input, agenda := turns }

/-- The state error entry leaves from `State.reset`, with these turns to come. -/
def inError (turns : List Turn) : State := { raise .illegalCommand 0 State.reset with agenda := turns }

/-- The state at DONE with these outputs still in OUTFIFO. -/
def atDone (outs : List Word) (turns : List Turn := []) : State :=
  { State.reset with
    phase := .done, opreg := 0x10, endFlag := true, fin := true, outFifo := outs
    outCount := BitVec.ofNat 64 outs.length, dp := some .vp, agenda := turns }

/-- The outcome is a next state with the property p. -/
def nextIs (r : Result) (p : State → Bool) : Bool :=
  match r with
  | .next t => p t
  | .fault _ => false
  | .refused _ => false

/-- The outcome is this refusal. -/
def refusedWith (r : Result) (why : Refusal) : Bool :=
  match r with
  | .refused x => decide (x = why)
  | .next _ => false
  | .fault _ => false

/-! ### WellFormed: what it refuses -/

theorem test_wellFormed_width : ¬ Access.WellFormed ⟨.read, 32, 0x08, 0⟩ := by decide
theorem test_wellFormed_alignment : ¬ Access.WellFormed (.write64 0x04 0) := by decide
theorem test_wellFormed_window : ¬ Access.WellFormed (.read64 0x100) := by decide
theorem test_wellFormed_last : Access.WellFormed (.read64 0xF8) := by decide
theorem test_wellFormed_inDepth : ¬ Config.WellFormed { Config.standard with inDepth := 0 } := by decide
theorem test_wellFormed_outDepth : ¬ Config.WellFormed { Config.standard with outDepth := 0 } := by decide
theorem test_wellFormed_standard : Config.standard.WellFormed := by decide

/-! ### Decoding: every command's word, written out from the table of 30_encoding.md R90 -/

theorem test_decode_clr : decode 0x0000000000000000#64 = .ok .clr := rfl
theorem test_decode_vpack16 : decode 0x0000000000000010#64 = .ok .vpack16 := rfl
theorem test_decode_vpack32 : decode 0x0000000000000011#64 = .ok .vpack32 := rfl
theorem test_decode_vunpack16 : decode 0x0000000000000012#64 = .ok .vunpack16 := rfl
theorem test_decode_vunpack32 : decode 0x0000000000000013#64 = .ok .vunpack32 := rfl
theorem test_decode_dpack : decode 0x0000000000000020#64 = .ok .dpack := rfl
theorem test_decode_dunpack : decode 0x0000000000000021#64 = .ok .dunpack := rfl
theorem test_decode_rleenc : decode 0x0000000000000030#64 = .ok .rleenc := rfl
theorem test_decode_rledec : decode 0x0000000000000031#64 = .ok .rledec := rfl
theorem test_decode_qsplit : decode 0x0000000000000040#64 = .ok .qsplit := rfl
theorem test_decode_qjoin : decode 0x0000000000000041#64 = .ok .qjoin := rfl
theorem test_decode_unassigned : decode 0x14#64 = .error .unassignedOp := rfl
theorem test_decode_reserved : decode 0x110#64 = .error .reservedBits := rfl
theorem test_decode_topBit : decode 0x8000000000000010#64 = .error .reservedBits := rfl
theorem test_decodeTableWord : decodeTableWord 64 0x31 = some .rledec := rfl
theorem test_decodeTableWord_byte : decodeTableWord 8 0x1FF = none := rfl

/-- The first step after reset runs the word `withFetchWord` places: RLEDEC starts (R124). -/
theorem test_withFetchWord_runs :
    nextIs (step (State.reset.withFetchWord 64 0x31)) (fun t => decide (t.phase = .run ∧ t.opreg = 0x31)) = true := by decide

/-- V2: the unassigned word 0x14 raises IllegalCommand; STATUS = 0x603. -/
theorem test_withFetchWord_illegal :
    nextIs (step (State.reset.withFetchWord 64 0x14)) (fun t => decide (statusWord t = 0x603#64)) = true := by decide

/-! ### The interface, vectors of 95_test_vectors.md section 3 -/

/-- V1: PUSH 5 in IDLE. -/
theorem test_push_in_idle :
    nextIs (step (atReset [.access (.write64 0x18 5)])) (fun t => decide (statusWord t = 0x703#64)) = true := by decide

/-- V6: POP in IDLE returns 0 and changes nothing. -/
theorem test_pop_in_idle :
    nextIs (step (atReset [.access (.read64 0x28)])) (fun t => decide (t = { State.reset with reads := [⟨0x28, 0⟩] })) = true := by
  decide

/-- V5: POP in RUN with OUTFIFO empty returns 0 and raises ProtocolError; STATUS = 0x100703. -/
theorem test_pop_empty_in_run :
    nextIs (step (running .vpack16 .vp [] [.access (.read64 0x28)]))
      (fun t => decide (statusWord t = 0x100703#64 ∧ t.reads = [⟨0x28, 0⟩])) = true := by decide

/-- V10: the STATUS of DONE with nothing left to read, and of a command that has just started. -/
theorem test_status_done : statusWord (atDone []) = 0x100026#64 := by decide
theorem test_status_run : statusWord (running .vpack32 .vp []) = 0x110011#64 := by decide

/-- R72: the three accesses the interface does not define. -/
theorem test_refused_width :
    refusedWith (step (atReset [.access ⟨.write, 32, 0x00, 0⟩])) .accessWidth = true := by decide
theorem test_refused_alignment : refusedWith (step (atReset [.access (.read64 0x0C)])) .accessMisaligned = true := by decide
theorem test_refused_window : refusedWith (step (atReset [.access (.read64 0x100)])) .accessOutsideWindow = true := by decide

/-! ### One engine step of each command, values of 95_test_vectors.md sections 1 and 2 -/

/-- V13: SETLEN 7 then CLR leaves LEN = 7. -/
theorem test_clr_keeps_len :
    nextIs (exec .clr { State.reset with len := 7, lenS := 3, inCount := 2 })
      (fun t => decide (t = { State.reset with len := 7 })) = true := by decide

/-- V15: CLR leaves ERR. -/
theorem test_clr_leaves_err : nextIs (exec .clr (inError [])) (fun t => decide (statusWord t = 0)) = true := by decide

/-- Table 2.1: 128 is escaped, its payload byte 0x80 is data. -/
theorem test_vpack16_escape :
    nextIs (step (running .vpack16 .vp [128])) (fun t => decide (t.pending = [0x80, 0x80, 0x00] ∧ t.inCount = 1)) = true := by
  decide

/-- Table 2.1: 40000 is outside int16. -/
theorem test_vpack16_range :
    nextIs (step (running .vpack16 .vp [40000]))
      (fun t => decide (t.phase = .err ∧ t.errcode = some .rangeOverflow ∧ t.errIndex = 0)) = true := by decide

/-- Table 2.2: -305419896. -/
theorem test_vpack32_negative :
    nextIs (step (running .vpack32 .vp [-305419896])) (fun t => decide (t.pending = [0x80, 0x88, 0xA9, 0xCB, 0xED])) = true := by
  decide

/-- Table 2.1: `[80, 80, 80]` is -32640; its last byte. -/
theorem test_vunpack16_payload_escape_byte :
    nextIs (step (running .vunpack16 (.vd ⟨true, 1, 0x80⟩) [0x80])) (fun t => decide (t.pending = [-32640])) = true := by decide

/-- Table 2.1: `[80]` ends inside an escape. -/
theorem test_vunpack16_truncated :
    nextIs (step { running .vunpack16 (.vd ⟨true, 0, 0⟩) [] with endFlag := true, inCount := 1 })
      (fun t => decide (t.errcode = some .corruptContainer ∧ t.errIndex = 1)) = true := by decide

/-- Table 2.2: `[80, 88, A9, CB, ED]` is -305419896, three unsigned bytes and one signed; its last byte. -/
theorem test_vunpack32_last_byte :
    nextIs (step (running .vunpack32 (.vd ⟨true, 3, 0xCBA988⟩) [0xED])) (fun t => decide (t.pending = [-305419896])) = true := by
  decide

/-- X3: after 95, the value 30000 is the difference 29905. -/
theorem test_dpack_difference :
    nextIs (step (running .dpack (.dp 95) [30000]))
      (fun t => decide (t.pending = [0x80, 0xD1, 0x74] ∧ t.dp = some (.dp 30000))) = true := by decide

/-- Table 2.3: DPACK of nothing is EmptyInput at 0. -/
theorem test_dpack_empty :
    nextIs (step { running .dpack (.dp 0) [] with endFlag := true })
      (fun t => decide (t.errcode = some .emptyInput ∧ t.errIndex = 0)) = true := by decide

/-- X3: after 100, the byte F6 is the difference -10. -/
theorem test_dunpack_sum :
    nextIs (step (running .dunpack (.du ⟨false, 0, 0⟩ 105) [0xF6])) (fun t => decide (t.pending = [95])) = true := by decide

/-- Table 2.3: under wrap16 the sum 32768 becomes -32768. -/
theorem test_dunpack_wrap :
    nextIs (step { running .dunpack (.du ⟨false, 0, 0⟩ 32767) [1] with cfg := { Config.standard with deltaPolicy := .wrap16 } })
      (fun t => decide (t.pending = [-32768])) = true := by decide

/-- Table 2.4, `[5, 5, 2]`: the run of 5 is closed by the 2, whose gap is 0. -/
theorem test_rleenc_close :
    nextIs (step { running .rleenc (.re ⟨.inRun, 5, 2, 0, 0⟩) [2] with inCount := 2 })
      (fun t => decide (t.pending = [0, 2, 5] ∧ t.dp = some (.re ⟨.inRun, 2, 1, 0, 2⟩))) = true := by decide

/-- Table 2.4: a gap of 65536 is RangeOverflow at the finish step. -/
theorem test_rleenc_gap :
    nextIs (step { running .rleenc (.re ⟨.inRun, 1, 1, 65536, 0⟩) [] with endFlag := true, inCount := 65537 })
      (fun t => decide (t.errcode = some .rangeOverflow ∧ t.errIndex = 65537)) = true := by decide

/-- X5: the triple (2, 3, 5). -/
theorem test_rledec_triple :
    nextIs (step { running .rledec (.rd ⟨2, 2, 3, 0, 10⟩) [5] with inCount := 2 })
      (fun t => decide (t.pending = [0, 0, 5, 5, 5] ∧ t.dp = some (.rd ⟨0, 0, 0, 5, 10⟩))) = true := by decide

/-- Table 2.4, `[0, 2, 300]` with LEN = 1: the value check comes before the length check. -/
theorem test_rledec_value_first :
    nextIs (step { running .rledec (.rd ⟨2, 0, 2, 0, 1⟩) [300] with inCount := 2 })
      (fun t => decide (t.errcode = some .corruptContainer ∧ t.errIndex = 2)) = true := by decide

/-- X9: 3000.0 saturates. -/
theorem test_qsplit_saturates :
    nextIs (step (running .qsplit (.qs 6 ⟨0, 30000, 1, 0, 0⟩) [0])) (fun t => decide (t.pending = [0, 32767, 0, 0])) = true := by
  decide

/-- Table 2.5: XE = 19 is MalformedInput at 3. -/
theorem test_qsplit_exponent :
    nextIs (step { running .qsplit (.qs 3 ⟨0, 1, 0, 0, 0⟩) [19] with inCount := 3 })
      (fun t => decide (t.errcode = some .malformedInput ∧ t.errIndex = 3)) = true := by decide

/-- Table 2.5: `[0, 32767, -32768, 255]`. -/
theorem test_qjoin_record :
    nextIs (step (running .qjoin (.qj 3 ⟨0, 32767, -32768⟩) [255]))
      (fun t => decide (t.pending = [0, 0, 20479375, 4, -20480000, 4, 255])) = true := by decide

/-- Table 2.5: an input that ends after three elements. -/
theorem test_qjoin_partial :
    nextIs (step { running .qjoin (.qj 3 ⟨5, 1600, 3200⟩) [] with endFlag := true, inCount := 3 })
      (fun t => decide (t.errcode = some .channelLengthMismatch ∧ t.errIndex = 3)) = true := by decide

/-- Table 2.5: 0.03125 * 16 = 0.5 under the two values of ROUND_TIES, and -1.6. -/
theorem test_qpos_half : qpos .even 3125 5 = 0 ∧ qpos .away 3125 5 = 1 ∧ qpos .away (-3125) 5 = -1 ∧ qpos .even (-1) 1 = -2 := by
  decide

/-! ### The statements' hypotheses are met -/

theorem inv_running (input : List Word) (turns : List Turn) (h : input.length ≤ 4) :
    Inv (running .vpack16 .vp input turns) := by
  constructor <;> simp [running, State.reset, State.resetWith, Config.standard]
  case inRoom => exact h
  case running => exact rfl

/-- The state of V16 (95_test_vectors.md section 3) but for its depths: OUTFIFO full, an element pending. -/
def outputFull : State :=
  { running .vpack16 .vp [1] with
    cfg := { Config.standard with inDepth := 1, outDepth := 1 }, outFifo := [0x80], pending := [0x80, 0x00]
    inCount := 1, outCount := 1 }

theorem inv_outputFull : Inv outputFull := by
  constructor <;> simp [outputFull, running, State.reset, State.resetWith, Config.standard]
  case running => exact rfl

theorem inv_inError (turns : List Turn) : Inv (inError turns) := by
  constructor <;> simp [inError, raise, State.reset, State.resetWith, Config.standard]

/-- IllegalCommandWordsAndTheirWrite: words of each gap of R92, at both ends, and with a reserved bit. -/
theorem test_witness_illegalWords :
    (∀ w ∈ [0x01#64, 0x0F#64, 0x14#64, 0x1F#64, 0x22#64, 0x2F#64, 0x32#64, 0x3F#64, 0x42#64, 0xFF#64],
      decode w = .error .unassignedOp) ∧
    (∀ w ∈ [0x100#64, 0x8000000000000000#64], decode w = .error .reservedBits) := by
  constructor <;> intro w hw <;> simp at hw <;> rcases hw with rfl | rfl | rfl | rfl | rfl | rfl | rfl | rfl | rfl | rfl <;> rfl

/-- StepTakesTheNextTurn: an agenda of each shape. -/
theorem test_witness_turns :
    (atReset []).agenda = [] ∧ (atReset [.engine]).agenda = .engine :: [] ∧
    (atReset [.access (.read64 0x08)]).agenda = .access (.read64 0x08) :: [] ∧ (atReset [.reset]).agenda = .reset :: [] := by
  decide

/-- StepTakesTheNextTurn: an acting host before an engine that has the turn after one step, as long as the agenda is. -/
theorem test_witness_fairness :
    let s := atReset [.access (.read64 0x08)]
    (∀ k, k ≤ s.agenda.length → ∃ t, runSteps k s = .next t) ∧ ¬ EngineIsNext s ∧
      ∃ t, runSteps 1 s = .next t ∧ EngineIsNext t := by
  refine ⟨fun k hk => ?_, by simp [EngineIsNext, atReset], _, rfl, .inl rfl⟩
  match k, hk with
  | 0, _ => exact ⟨_, rfl⟩
  | 1, _ => exact ⟨_, rfl⟩

/-- From reset with nothing placed the first step is an engine turn that changes no component of the block; the
environment's first list stands after it. -/
theorem test_first_step_from_reset :
    step State.reset = .next { State.reset with agenda := Config.environment 0, round := 1 } := rfl

/-- StepRunsTheDecodedCommand: the next turn writes VPACK16's word to CMD. -/
theorem test_witness_decodedCommand :
    (atReset [.access (.write64 0x00 0x10)]).agenda = .access (.write64 0x00 0x10) :: [] ∧ decode 0x10#64 = .ok .vpack16 ∧
      Instr.vpack16.WellFormed := ⟨rfl, rfl, by decide⟩

/-- ClrClearsInEveryPhase: a state of the invariant in IDLE, and a word with OP = 0 and the lowest reserved bit set. -/
theorem test_witness_clr :
    (Inv { atReset [] with len := 7 } ∧ { atReset [] with len := 7 }.phase = .idle) ∧ opField 0x100#64 = 0 ∧ 0x100#64 ≠ 0 := by
  refine ⟨⟨?_, rfl⟩, by decide, by decide⟩
  constructor <;> simp [atReset, State.reset, State.resetWith, Config.standard]

/-- VarintCommandsStart and the three statements like it: both kinds of state a command starts from, and a row of each. -/
theorem test_witness_startable : Startable (atReset []) ∧ Startable (atDone []) := by decide
theorem test_witness_startRows :
    (Instr.vunpack32, 0x13#8, Datapath.vd ⟨false, 0, 0⟩) ∈ [(Instr.vpack16, 0x10#8, Datapath.vp), (.vpack32, 0x11#8, .vp),
      (.vunpack16, 0x12#8, .vd ⟨false, 0, 0⟩), (.vunpack32, 0x13#8, .vd ⟨false, 0, 0⟩)] ∧
    (Instr.dunpack, 0x21#8, Datapath.du ⟨false, 0, 0⟩ 0) ∈ [(Instr.dpack, 0x20#8, Datapath.dp 0), (.dunpack, 0x21#8, .du ⟨false, 0, 0⟩ 0)] ∧
    (Instr.rleenc, 0x30#8, Datapath.re ⟨.noRun, 0, 0, 0, 0⟩) ∈ [(Instr.rleenc, 0x30#8, Datapath.re ⟨.noRun, 0, 0, 0, 0⟩),
      (.rledec, 0x31#8, .rd ⟨0, 0, 0, 0, (atReset []).len.toNat⟩)] ∧
    (Instr.qsplit, 0x40#8, Datapath.qs 0 ⟨0, 0, 0, 0, 0⟩) ∈ [(Instr.qsplit, 0x40#8, Datapath.qs 0 ⟨0, 0, 0, 0, 0⟩), (.qjoin, 0x41#8, .qj 0 ⟨0, 0, 0⟩)] := by
  decide

/-- StartForgetsEarlierCommands: two different states that may start a command and agree on what the statement names. -/
theorem test_witness_startForgets :
    Instr.qsplit ≠ .clr ∧ Startable (atReset []) ∧ Startable (atDone []) ∧ (atReset []).len = (atDone []).len ∧
      (atReset []).cfg = (atDone []).cfg ∧ (atReset []).agenda = (atDone []).agenda ∧
      (atReset []).round = (atDone []).round ∧ (atReset []).reads = (atDone []).reads ∧
      atReset [] ≠ atDone [] := by decide

/-- UndefinedAccessesAreRefused: the last defined access, and one of each undefined kind. -/
theorem test_witness_accesses :
    (Access.read64 0xF8).WellFormed ∧ ¬ Access.WellFormed ⟨.read, 8, 0x00, 0⟩ ∧ ¬ (Access.read64 0xFC).WellFormed ∧
      ¬ (Access.read64 0x100).WellFormed := by decide

/-- InputPortWrites: a state for every clause. -/
theorem test_witness_inputPort :
    (inError []).phase = .err ∧
    ((atDone []).phase ≠ .err ∧ (atDone []).phase ≠ .run) ∧
    ((running .vpack16 .vp [1, 2, 3, 4]).phase ≠ .err ∧
      (running .vpack16 .vp [1, 2, 3, 4]).inFifo.length = (running .vpack16 .vp [1, 2, 3, 4]).cfg.inDepth) ∧
    ((running .vpack16 .vp [1, 2, 3]).phase = .run ∧ (running .vpack16 .vp [1, 2, 3]).endFlag = false ∧
      (running .vpack16 .vp [1, 2, 3]).inFifo.length ≠ (running .vpack16 .vp [1, 2, 3]).cfg.inDepth) := by decide

/-- OutDataRead: a state for every clause. -/
theorem test_witness_outData :
    (atDone [7]).outFifo = 7 :: [] ∧ ((atReset []).outFifo = [] ∧ (atReset []).phase = .idle) ∧
    ((inError []).outFifo = [] ∧ (inError []).phase = .err) ∧
    ((running .dpack (.dp 0) []).outFifo = [] ∧ (running .dpack (.dp 0) []).phase = .run) ∧
    ((atDone []).outFifo = [] ∧ (atDone []).phase = .done) := by decide

/-- LenWriteAndRegisterReads, BehaviourInErr and ReservedOffsetsAndAccessDirection: offsets of each clause, at the ends. -/
theorem test_witness_offsets :
    (0x40, (atReset []).errIndex) ∈ [(0x40, (atReset []).errIndex)] ∧ 0x08 ∈ [0x08, 0x10, 0x30, 0x38, 0x40] ∧
    (0x48 % 8 = 0 ∧ 0x48 < 0x100 ∧ 0x48 ≤ 0x48) ∧ (0xF8 % 8 = 0 ∧ 0xF8 < 0x100 ∧ 0x48 ≤ 0xF8) ∧ 0x20 % 8 = 0 ∧ 0x40 % 8 = 0 := by
  decide

/-- ReadyFlagsAreGuarantees: a state of the invariant with IN_READY = 1 whose engine turn has a next state; and one with
OUT_VALID = 1. -/
theorem test_witness_readyFlags :
    (Inv (running .vpack16 .vp [1]) ∧ inReady (running .vpack16 .vp [1]) = true ∧
      nextIs (engineTurn (running .vpack16 .vp [1])) (fun _ => true) = true) ∧
    (Inv outputFull ∧ outValid outputFull = true ∧ engineTurn outputFull = .next outputFull) :=
  ⟨⟨inv_running [1] _ (by decide), by decide, by decide⟩, inv_outputFull, by decide, rfl⟩

/-- ErrIsLeftOnlyByClrOrReset, CountersNeverWrap: next turns that clear and one that does not. -/
theorem test_witness_clearIsNext :
    ClearIsNext (inError [.access (.write64 0x00 0)]) ∧ ClearIsNext (inError [.reset]) ∧ ¬ ClearIsNext (inError [.access (.write64 0x18 1)]) :=
  ⟨⟨[], .inr ⟨_, rfl, rfl, rfl, rfl⟩⟩, ⟨[], .inl rfl⟩, by simp [ClearIsNext, inError, Access.write64]⟩
/-- BehaviourInErr, ErrIsLeftOnlyByClrOrReset: ERR, with a next step of each kind. -/
theorem test_witness_err :
    Inv (inError []) ∧ (inError []).phase = .err ∧ (0x14#64) ≠ 0 ∧
    ¬ ((Access.write64 0x18 0).dir = .write ∧ (Access.write64 0x18 0).offset = 0x00 ∧ (Access.write64 0x18 0).data = 0) ∧
    nextIs (step (inError [.access (.write64 0x18 1)])) (fun t => decide (t.phase = .err)) = true ∧
    nextIs (step (inError [.access (.write64 0x00 0)])) (fun t => decide (t.phase = .idle)) = true ∧
    nextIs (step (inError [.reset])) (fun t => decide (t.phase = .idle)) = true :=
  ⟨inv_inError [], rfl, by decide, by decide, by decide, by decide, by decide⟩

/-- CountersNeverWrap: a command start, a clear, and a consume step below the end of IN_COUNT, where nothing is emitted
(RLEENC on a zero); at the end of IN_COUNT the same step raises RangeOverflow. -/
theorem test_witness_counters :
    (Startable (atReset [.access (.write64 0x00 0x30)]) ∧
      nextIs (step (atReset [.access (.write64 0x00 0x30)])) (fun t => decide (t.phase = .run ∧ t.inCount = 0)) = true) ∧
    (ClearIsNext (running .rleenc (.re rleInit) [] [.reset]) ∧
      nextIs (step { running .rleenc (.re rleInit) [] [.reset] with inCount := 5 }) (fun t => decide (t.inCount = 0)) = true) ∧
    nextIs (step { running .rleenc (.re rleInit) [0] with inCount := countMax - 1 })
      (fun t => decide (t.inCount = countMax ∧ t.outCount = 0)) = true ∧
    nextIs (step { running .rleenc (.re rleInit) [0] with inCount := countMax })
      (fun t => decide (t.phase = .err ∧ t.errcode = some .rangeOverflow ∧ t.inCount = countMax)) = true :=
  ⟨by decide, ⟨⟨[], .inl rfl⟩, by decide⟩, by decide, by decide⟩

/-- ErrorRecordChangesOnlyThere, LenChangesOnlyByWriteOrReset, PhaseTransitionsAndOpreg,
ParametersAreFixedAndTheBaseIsIrrelevant: steps that have a next state, one of each kind of change. -/
theorem test_witness_steps :
    nextIs (step (atReset [.access (.write64 0x00 0x14)])) (fun t => decide (t.errcode = some .illegalCommand)) = true ∧
    nextIs (step (running .vpack16 .vp [1])) (fun t => decide (t.inCount = 1)) = true ∧
    nextIs (step (atReset [.access (.write64 0x10 9)])) (fun t => decide (t.len = 9)) = true ∧
    nextIs (step (atReset [.access (.write64 0x00 0x40)])) (fun t => decide (t.phase = .run ∧ t.opreg = 0x40)) = true := by decide

/-- EngineWaitsInExactlyTwoCases: a state of each waiting case. -/
theorem test_witness_waits :
    (Inv outputFull ∧ outputFull.phase = .run ∧ outputFull.pending ≠ [] ∧ outputFull.outFifo.length = outputFull.cfg.outDepth) ∧
    (Inv (running .vpack16 .vp []) ∧ (running .vpack16 .vp []).phase = .run ∧ (running .vpack16 .vp []).pending = [] ∧
      (running .vpack16 .vp []).fin = false ∧ (running .vpack16 .vp []).inFifo = [] ∧
      (running .vpack16 .vp []).endFlag = false) :=
  ⟨⟨inv_outputFull, by decide, by decide, by decide⟩, inv_running [] _ (by decide), by decide, by decide, by decide, by decide,
    by decide⟩

/-- TransferStepMovesOneElement: below and at the end of OUT_COUNT. -/
theorem test_witness_transfer :
    (TransferEnabled { running .vpack16 .vp [] with pending := [5] }) ∧
    (TransferEnabled { running .vpack16 .vp [] with pending := [5], outCount := countMax } ∧ countMax.toNat = 2 ^ 64 - 1) := by
  decide

/-- ConsumeStepTakesOneElement: an accepted element, a rejected one, and IN_COUNT at its end. -/
theorem test_witness_consume :
    (ConsumeEnabled (running .vpack16 .vp [5]) ∧ decodeOp (running .vpack16 .vp [5]).opreg = some .vpack16 ∧
      consumeOf Config.standard .vpack16 .vp (5#64).toInt 0 = .ok (.vp, [5]) ∧
      consumeOf Config.standard .vpack16 .vp (40000#64).toInt 0 = .error .rangeOverflow) ∧
    ConsumeEnabled { running .vpack16 .vp [5] with inCount := countMax } := by decide

/-- FinishAndCompleteSteps: a finish step that emits, one that raises, and a complete step. -/
theorem test_witness_finish :
    (FinishEnabled { running .rledec (.rd ⟨0, 0, 0, 0, 2⟩) [] with endFlag := true } ∧
      finishOf .rledec (.rd ⟨0, 0, 0, 0, 2⟩) 0 = .ok [0, 0] ∧ finishOf .rledec (.rd ⟨1, 0, 0, 0, 2⟩) 1 = .error .corruptContainer) ∧
    CompleteEnabled { running .vpack16 .vp [] with endFlag := true, fin := true } := by decide

/-- EveryStepKeepsTheInvariant and NoFaultFromTheInvariant: a state of the invariant with a next state, and one that is
refused. -/
theorem test_witness_invariant :
    (Inv (running .vpack16 .vp [1]) ∧ nextIs (step (running .vpack16 .vp [1])) (fun t => decide (t.pending = [1])) = true) ∧
    (Inv (running .vpack16 .vp [] [.access (.read64 0x100)]) ∧
      refusedWith (step (running .vpack16 .vp [] [.access (.read64 0x100)])) .accessOutsideWindow = true) :=
  ⟨⟨inv_running [1] _ (by decide), by decide⟩, inv_running [] _ (by decide), by decide⟩

/-- The turns of a host that gives VPACK16 the element v and ends the input, the engine going on in between. -/
def schedule (v : Int) : List Turn :=
  [.access (pushAccess v), .engine, .access (.read64 0x08), .access endAccess, .engine, .engine, .engine]

/-- ResultIsTheFoldForEveryInterleaving: an interleaving that ends in DONE, and one that ends in ERR. -/
theorem test_witness_interleaving :
    Startable (atReset (.access (cmdAccess .vpack16) :: schedule 1)) ∧
    ((∀ u ∈ schedule 1, InsideCommand u) ∧ (pushedBy (schedule 1)).length < 2 ^ 60 ∧
      nextIs (runSteps (1 + (schedule 1).length) (atReset (.access (cmdAccess .vpack16) :: schedule 1)))
        (fun t => decide (t.errcode ≠ some .protocolError ∧ t.phase = .done)) = true) ∧
    ((∀ u ∈ [Turn.access (pushAccess 40000), .engine], InsideCommand u) ∧
      nextIs (runSteps 3 (atReset [.access (cmdAccess .vpack16), .access (pushAccess 40000), .engine]))
        (fun t => decide (t.errcode ≠ some .protocolError ∧ t.phase = .err)) = true) := by
  refine ⟨by decide, ⟨?_, by decide, by decide⟩, ?_, by decide⟩
  · intro u hu; simp [schedule] at hu
    rcases hu with rfl | rfl | rfl | rfl | rfl | rfl | rfl <;> simp [InsideCommand, pushAccess, endAccess, Access.write64, Access.read64]
  · intro u hu; simp at hu; rcases hu with rfl | rfl <;> simp [InsideCommand, pushAccess, Access.write64]

/-- A host that gives VPACK16 the element -1 and ends the input, then k engine turns. -/
def oneElement (k : Nat) : State :=
  atReset (.access (cmdAccess .vpack16) :: ([(-1 : Word)].map (fun w => Turn.access (.write64 0x18 w)) ++
    .access endAccess :: List.replicate k .engine))

/-- CommandReachesDoneInNPlusMPlusTwoEngineSteps: the element -1, whose code is FF (95_test_vectors.md, table 2.1). -/
theorem test_witness_reachesDone :
    Startable (atReset []) ∧ commandResult Config.standard .vpack16 0 [(-1#64).toInt] = .done [0xFF] ∧
    nextIs (runSteps (1 + 2 + (1 + 1 + 2)) (oneElement 4))
      (fun t => decide (t.phase = .done ∧ t.agenda = [])) = true ∧
    nextIs (runSteps 6 (oneElement 4))
      (fun t => decide (t.phase = .run)) = true := by decide

/-- OutputCountsAreBounded: each command reaches DONE on an input of 95_test_vectors.md section 2. -/
theorem test_witness_outputCounts :
    commandResult Config.standard .vpack16 0 [128] = .done [0x80, 0x80, 0] ∧
    commandResult Config.standard .vpack32 0 [128] = .done [0x80, 0x80, 0, 0, 0] ∧
    commandResult Config.standard .vunpack16 0 [0x80, 5, 0] = .done [5] ∧
    commandResult Config.standard .vunpack32 0 [5, 10] = .done [5, 10] ∧
    commandResult Config.standard .dpack 0 [5, 5, 5] = .done [5, 0, 0] ∧
    commandResult Config.standard .dunpack 0 [0, 0x80, 0xFF, 0x7F] = .done [0, 32767] ∧
    commandResult Config.standard .rleenc 0 [5, 5, 2] = .done [0, 2, 5, 0, 1, 2] ∧
    commandResult Config.standard .rledec 3 [0, 2, 1] = .done [1, 1, 0] ∧
    commandResult Config.standard .qsplit 0 [0, -7, -1, 1, 1, 1, 3] = .done [-7, -2, 2, 3] ∧
    commandResult Config.standard .qjoin 0 [5, 1600, 3200, 1] = .done [0, 5, 1000000, 4, 2000000, 4, 1] := by decide

/-- VarintCodeForms, VarintValueAssembly, VarintRoundTrip: literals and escapes at the ends of their ranges. -/
theorem test_witness_varintValues :
    (-127 ≤ (-127 : Int) ∧ (127 : Int) ≤ 127) ∧ (FitsS 16 (-128) ∧ ¬ (-127 ≤ (-128 : Int) ∧ (-128 : Int) ≤ 127)) ∧
    (FitsS 32 128 ∧ ¬ (-127 ≤ (128 : Int) ∧ (128 : Int) ≤ 127)) ∧ (0xFF < 256 ∧ 0xFF ≠ 0x80) ∧
    (∀ v ∈ [(-32768 : Int), -128, 127, 32767], FitsS 16 v) ∧ (∀ v ∈ [(-2147483648 : Int), 2147483647], FitsS 32 v) := by decide

/-- VpackResult, VunpackResult, VarintRoundTrip, TruncatedEscapeIsCorrupt: rows of their lists, and a cut escape. -/
theorem test_witness_varintRows :
    (16, Instr.vpack16) ∈ [(16, Instr.vpack16), (32, .vpack32)] ∧ (32, Instr.vunpack32) ∈ [(16, Instr.vunpack16), (32, .vunpack32)] ∧
    (32, Instr.vpack32, Instr.vunpack32) ∈ [(16, Instr.vpack16, Instr.vunpack16), (32, .vpack32, .vunpack32)] ∧
    (∀ v ∈ [(128 : Int)], FitsS 32 v) ∧ (∀ p ∈ [0xFF, 0x00, 0x12], p < 256) ∧ [0xFF, 0x00, 0x12].length < 32 / 8 := by decide

/-- DeltaRoundTrip: DPACK reaches DONE under `fault` (X3), and the wrap16 clause on a list whose difference wraps. -/
theorem test_witness_delta :
    (Config.standard.deltaPolicy = .fault ∧ commandResult Config.standard .dpack 0 [7] = .done [7]) ∧
    ({ Config.standard with deltaPolicy := .wrap16 }.deltaPolicy = .wrap16 ∧ [(32767 : Int), -32768] ≠ [] ∧
      ∀ v ∈ [(32767 : Int), -32768], FitsS 16 v) := by decide

/-- DunpackByte: every clause has bytes that meet its hypotheses. -/
theorem test_witness_dunpackByte :
    (256 : Int) > 255 ∧ vdecStep 16 ⟨false, 0, 0⟩ (byte (-128)) = (⟨true, 0, 0⟩, none) ∧
    vdecStep 16 ⟨false, 0, 0⟩ (byte 1) = (⟨false, 0, 0⟩, some 1) ∧ FitsS 16 (32766 + 1) ∧ ¬ FitsS 16 (32767 + 1) := by decide

/-- RleencTransitionTable: every clause, at the ends of its ranges. -/
theorem test_witness_transitions :
    (255 ≤ 255 ∧ (rleInit.rs = .noRun)) ∧ ((⟨.inRun, 255, 1, 0, 0⟩ : REnc).rs = .inRun ∧ 255 = (⟨.inRun, 255, 1, 0, 0⟩ : REnc).cur) ∧
    (0 ≠ (⟨.inRun, 255, 65536, 0, 0⟩ : REnc).cur ∧ 65535 < (⟨.inRun, 255, 65536, 0, 0⟩ : REnc).rlen) ∧
    (0 ≠ (⟨.inRun, 255, 65535, 65535, 0⟩ : REnc).cur ∧ (⟨.inRun, 255, 65535, 65535, 0⟩ : REnc).gap ≤ 65535 ∧
      (⟨.inRun, 255, 65535, 65535, 0⟩ : REnc).rlen ≤ 65535) := by decide

/-- RunLengthRoundTrip: RLEENC reaches DONE. -/
theorem test_witness_runLength :
    [(0 : Int), 1, 0, 1].length < 2 ^ 64 ∧ commandResult Config.standard .rleenc 0 [0, 1, 0, 1] = .done [1, 1, 1, 1, 1, 1] := by
  decide

/-- RledecRejections: after the triple (2, 3, 5) with N = 5, values that meet each clause. -/
theorem test_witness_rledec :
    (∀ t ∈ [(⟨2, 3, 5⟩ : Triple)], t.gap ≤ 65535 ∧ t.len ≤ 65535 ∧ t.value ≤ 255) ∧
    ([(⟨2, 3, 5⟩ : Triple)].flatMap tripleBytes).length ≤ (5#64).toNat ∧ ¬ FitsU 16 65536 ∧ ¬ FitsU 16 (-1) ∧ 255 < 256 ∧
    (5#64).toNat < ([(⟨2, 3, 5⟩ : Triple)].flatMap tripleBytes).length + 0 + 1 := by decide

/-- RoundTiesIsNearest: an exact half. PositionsSaturateAndDequantizeExactly: the first values that saturate, where the
rounding clause holds too, and a tie between the bounds. -/
theorem test_witness_rounding :
    (0 : Int) < 2 ∧ 2 * ((1 : Int) - roundTies .even 1 2 * 2) = 2 ∧
    (32767 : Int) * 10 ^ (4 : Int).toNat ≤ 16 * 20479375 ∧ 16 * (-20480000 : Int) ≤ -32768 * 10 ^ (4 : Int).toNat ∧
    16 * (20479375 : Int) ≤ 32767 * 10 ^ (4 : Int).toNat ∧ -32768 * 10 ^ (4 : Int).toNat ≤ 16 * (-20480000 : Int) ∧
    2 * (16 * (3125 : Int) - qpos .even 3125 5 * 10 ^ (5 : Int).toNat) = 10 ^ (5 : Int).toNat ∧
    2 * (16 * (3125 : Int) - qpos .away 3125 5 * 10 ^ (5 : Int).toNat) = -10 ^ (5 : Int).toNat ∧
    FitsS 16 (-32768) := by decide

/-- QsplitResult, QsplitRejections: accepted records, under both time policies, and values that meet each rejection. -/
theorem test_witness_qsplit :
    (∀ r ∈ [SplitRecord.fields 5 1000 18 2000 0 1, .empty], r.Accepted .fault) ∧
    SplitRecord.Accepted .saturate (.fields (2 ^ 31) 0 0 0 0 0) ∧
    (¬ FitsS 32 (2 ^ 31) ∧ FitsS 32 (2 ^ 31 - 1) ∧ ¬ (0 ≤ (19 : Int) ∧ (19 : Int) ≤ 18) ∧ ¬ (0 ≤ (-1 : Int) ∧ (-1 : Int) ≤ 18) ∧
      (2 : Int) ≠ 0 ∧ (2 : Int) ≠ 1 ∧ commandResult Config.standard .qsplit 0 [1, 1] = .done []) := by
  refine ⟨?_, ?_, by decide⟩
  · intro r hr; simp at hr; rcases hr with rfl | rfl <;> simp [SplitRecord.Accepted, FitsS, maxExp]
  · simp [SplitRecord.Accepted, maxExp]

/-- QjoinResult, SplitUndoesJoin: records at the ends of the channel ranges, and values just outside. -/
theorem test_witness_qjoin :
    (∀ r ∈ [(⟨2 ^ 31 - 1, 32767, -32768, 255⟩ : ChannelRecord), ⟨-2 ^ 31, 0, 0, 0⟩], r.InRange) ∧ ¬ FitsS 32 (2 ^ 31) ∧
    ¬ FitsS 16 32768 ∧ ¬ FitsS 16 (-32769) ∧ ¬ (0 ≤ (256 : Int) ∧ (256 : Int) ≤ 255) := by decide

end Sys2Proof.Tests
end

/-! PROOF. Rounding (00_scope.md R13, 44_segmenter.md R206): `roundTies` goes by the remainder `num % den` of the floor
`num / den`, below, above or at one half of `den`; an exact half is the only place where ROUND_TIES matters. -/
namespace Sys2Proof.Machine

section
variable {ties : RoundTies} {num den : Int}

theorem sub_floor_mul (num den : Int) : num - num / den * den = num % den := by
  rw [Int.emod_def, mul_comm]

theorem sub_floor_succ_mul (num den : Int) : num - (num / den + 1) * den = num % den - den := by
  rw [add_one_mul, ← sub_sub, sub_floor_mul]

theorem roundTies_of_lt_half (h : 2 * (num % den) < den) : roundTies ties num den = num / den := by
  simp only [roundTies, sub_floor_mul, if_pos h]

theorem roundTies_of_half_lt (h : den < 2 * (num % den)) : roundTies ties num den = num / den + 1 := by
  simp only [roundTies, sub_floor_mul, if_neg h.not_gt, if_pos h]

theorem roundTies_even_of_half (h : 2 * (num % den) = den) :
    roundTies .even num den = if num / den % 2 = 0 then num / den else num / den + 1 := by
  simp only [roundTies, sub_floor_mul, h, lt_irrefl, if_false]

theorem roundTies_away_of_half (h : 2 * (num % den) = den) :
    roundTies .away num den = if 0 < num then num / den + 1 else num / den := by
  simp only [roundTies, sub_floor_mul, h, lt_irrefl, if_false]

/-- The inversion of `roundTies`: the floor is kept only up to one half of `den`, and left only from there on. -/
theorem roundTies_cases (ties : RoundTies) (num den : Int) :
    (roundTies ties num den = num / den ∧ 2 * (num % den) ≤ den) ∨
    (roundTies ties num den = num / den + 1 ∧ den ≤ 2 * (num % den)) := by
  rcases lt_trichotomy (2 * (num % den)) den with below | half | above
  · exact .inl ⟨roundTies_of_lt_half below, below.le⟩
  · cases ties with
    | even => rw [roundTies_even_of_half half]; split <;> simp [half]
    | away => rw [roundTies_away_of_half half]; split <;> simp [half]
  · exact .inr ⟨roundTies_of_half_lt above, above.le⟩

theorem roundTies_nearest (ties : RoundTies) (num : Int) (hden : 0 < den) :
    |2 * (num - roundTies ties num den * den)| ≤ den := by
  have rem_nonneg := Int.emod_nonneg num hden.ne'
  have rem_lt := Int.emod_lt_of_pos num hden
  rw [abs_le]
  rcases roundTies_cases ties num den with ⟨floor, le_half⟩ | ⟨ceil, half_le⟩
  · rw [floor, sub_floor_mul]; omega
  · rw [ceil, sub_floor_succ_mul]; omega

/-- The distance to the rounded value reaches one half only where the remainder is one half. -/
theorem half_of_roundTies_tie (hden : 0 < den) (tie : |2 * (num - roundTies ties num den * den)| = den) :
    2 * (num % den) = den := by
  have rem_nonneg := Int.emod_nonneg num hden.ne'
  have rem_lt := Int.emod_lt_of_pos num hden
  rw [abs_eq hden.le] at tie
  rcases roundTies_cases ties num den with ⟨floor, le_half⟩ | ⟨ceil, half_le⟩
  · rw [floor, sub_floor_mul] at tie; omega
  · rw [ceil, sub_floor_succ_mul] at tie; omega

theorem roundTies_even_emod_two (half : 2 * (num % den) = den) : roundTies .even num den % 2 = 0 := by
  rw [roundTies_even_of_half half]
  split <;> omega

theorem lt_roundTies_away_mul (hden : 0 < den) (half : 2 * (num % den) = den) (hnum : 0 < num) :
    num < roundTies .away num den * den := by
  rw [roundTies_away_of_half half, if_pos hnum, ← sub_neg, sub_floor_succ_mul]
  omega

theorem roundTies_away_mul_lt (hden : 0 < den) (half : 2 * (num % den) = den) (hnum : num < 0) :
    roundTies .away num den * den < num := by
  rw [roundTies_away_of_half half, if_neg hnum.not_gt, ← sub_pos, sub_floor_mul]
  omega

end

/-- Settles O54: the distance is the remainder's, whose half is the only tie, and there each policy's choice is read off. -/
theorem roundTiesIsNearest : Obligations.RoundTiesIsNearest := by
  refine ⟨fun _ _ _ => rfl, fun ties num den hden => ?_⟩
  obtain ⟨lower, upper⟩ := abs_le.mp (roundTies_nearest ties num hden)
  refine ⟨lower, upper, fun tie => ?_⟩
  have half := half_of_roundTies_tie hden ((abs_eq hden.le).mpr tie)
  refine ⟨?even, ?away⟩
  case even => rintro rfl; exact roundTies_even_emod_two half
  case away => rintro rfl; exact ⟨lt_roundTies_away_mul hden half, roundTies_away_mul_lt hden half⟩

end Sys2Proof.Machine

/-! PROOF. What one step can do to the control registers (10_state.md R30): it goes on with what runs, enters ERR, starts a
command, or clears the block. The statements on the error record, the counters, LEN, PHASE and OPREG are read off this. -/
namespace Sys2Proof.Machine

/-- A counter is as it was or exactly one more, as a number (10_state.md R42). -/
def CountsUp (w v : Word) : Prop := v = w ∨ v.toNat = w.toNat + 1

theorem CountsUp.refl (w : Word) : CountsUp w w := .inl rfl

theorem CountsUp.add_one {w : Word} (h : w ≠ countMax) : CountsUp w (w + 1) := .inr (toNat_add_one h)

/-- The step from s to t neither raises nor starts nor clears. -/
structure Progress (s t : State) : Prop where
  cfg : t.cfg = s.cfg
  phase : t.phase = s.phase ∨ (s.phase = .run ∧ t.phase = .done)
  opreg : t.opreg = s.opreg
  len : t.len = s.len ∨ ∃ a rest, s.agenda = .access a :: rest ∧ a.dir = .write ∧ a.offset = 0x10 ∧ t.len = a.data
  lenS : t.lenS = s.lenS
  inCount : CountsUp s.inCount t.inCount
  outCount : CountsUp s.outCount t.outCount
  errcode : t.errcode = s.errcode
  errIndex : t.errIndex = s.errIndex

/-- The step from s to t is error entry (60_exceptions.md R242), which never happens in ERR. -/
structure EntersErr (s t : State) : Prop where
  cfg : t.cfg = s.cfg
  active : s.phase ≠ .err
  phase : t.phase = .err
  opreg : t.opreg = s.opreg
  len : t.len = s.len
  lenS : t.lenS = s.lenS
  inCount : t.inCount = s.inCount
  outCount : t.outCount = s.outCount
  errcode : t.errcode ≠ none
  errIndex : t.errIndex = s.inCount

/-- The step from s to t starts a command (40_engine.md R124). -/
structure Starts (s t : State) : Prop where
  cfg : t.cfg = s.cfg
  startable : Startable s
  phase : t.phase = .run
  opreg : ∃ i, i ≠ .clr ∧ t.opreg = opcode i
  len : t.len = s.len
  lenS : t.lenS = s.len
  inCount : t.inCount = 0
  outCount : t.outCount = 0
  errcode : t.errcode = none
  errIndex : t.errIndex = 0

/-- The step from s to t is CLR (40_engine.md R128) or hardware reset (70_reset_and_hazards.md R260). -/
structure Clears (s t : State) : Prop where
  cfg : t.cfg = s.cfg
  next : ClearIsNext s
  phase : t.phase = .idle
  opreg : t.opreg = 0
  len : t.len = s.len ∨ ∃ rest, s.agenda = .reset :: rest ∧ t.len = 0
  lenS : t.lenS = 0
  inCount : t.inCount = 0
  outCount : t.outCount = 0
  errcode : t.errcode = none
  errIndex : t.errIndex = 0

/-- The effect of a step on the control registers. -/
inductive StepEffect (s t : State) : Prop where
  | progress (effect : Progress s t)
  | error (effect : EntersErr s t)
  | start (effect : Starts s t)
  | clear (effect : Clears s t)

/-- A step by whose turn it is: the engine's, the platform's reset, or an access of the host. -/
theorem step_turn {s t : State} (h : step s = .next t) :
    (EngineIsNext s ∧ ∃ agenda round, EngineMove { s with agenda := agenda, round := round } t) ∨
    (∃ rest, s.agenda = .reset :: rest ∧ t = hardReset { s with agenda := rest }) ∨
    (∃ a rest, s.agenda = .access a :: rest ∧ HostMove a { s with agenda := rest } t) := by
  cases step_move h with
  | last _ agenda move => exact .inl ⟨.inl agenda, _, _, move⟩
  | engine rest _ agenda move => exact .inl ⟨.inr ⟨rest, agenda⟩, rest, s.round, move⟩
  | reset rest agenda => exact .inr (.inl ⟨rest, agenda, rfl⟩)
  | host a rest _ agenda move => exact .inr (.inr ⟨a, rest, agenda, move⟩)

theorem phase_ne_err_of_active {s : State} (h : s.phase = .run ∨ s.phase = .done) : s.phase ≠ .err := by
  rcases h with h | h <;> simp [h]

theorem EngineMove.effect {s t : State} {agenda : List Turn} {round : Nat}
    (move : EngineMove { s with agenda := agenda, round := round } t) : StepEffect s t := by
  cases move with
  | wait | finish => exact .progress ⟨rfl, .inl rfl, rfl, .inl rfl, rfl, .refl _, .refl _, rfl, rfl⟩
  | error _ run =>
    exact .error ⟨rfl, phase_ne_err_of_active (.inl run), rfl, rfl, rfl, rfl, rfl, rfl, Option.some_ne_none _, rfl⟩
  | transfer _ _ _ _ below =>
    exact .progress ⟨rfl, .inl rfl, rfl, .inl rfl, rfl, .refl _, .add_one below, rfl, rfl⟩
  | consume _ _ _ _ _ _ below =>
    exact .progress ⟨rfl, .inl rfl, rfl, .inl rfl, rfl, .add_one below, .refl _, rfl, rfl⟩
  | complete enabled =>
    exact .progress ⟨rfl, .inr ⟨enabled.1, rfl⟩, rfl, .inl rfl, rfl, .refl _, .refl _, rfl, rfl⟩

theorem HostMove.effect {s t : State} {a : Access} {rest : List Turn} (agenda : s.agenda = .access a :: rest)
    (move : HostMove a { s with agenda := rest } t) : StepEffect s t := by
  cases move with
  | ignored | read | pop | push | endInput =>
    exact .progress ⟨rfl, .inl rfl, rfl, .inl rfl, rfl, .refl _, .refl _, rfl, rfl⟩
  | len write offset =>
    exact .progress ⟨rfl, .inl rfl, rfl, .inr ⟨a, rest, agenda, write, offset, rfl⟩, rfl, .refl _, .refl _, rfl, rfl⟩
  | popError _ _ _ active =>
    exact .error ⟨rfl, phase_ne_err_of_active active, rfl, rfl, rfl, rfl, rfl, rfl, Option.some_ne_none _, rfl⟩
  | illegal _ _ active | protocol _ active =>
    exact .error ⟨rfl, active, rfl, rfl, rfl, rfl, rfl, rfl, Option.some_ne_none _, rfl⟩
  | clr write offset data =>
    exact .clear ⟨rfl, ⟨rest, .inr ⟨a, agenda, write, offset, data⟩⟩, rfl, rfl, .inl rfl, rfl, rfl, rfl, rfl, rfl⟩
  | start i init _ _ _ command _ startable =>
    exact .start ⟨rfl, startable, rfl, ⟨i, command, rfl⟩, rfl, rfl, rfl, rfl, rfl, rfl⟩

/-- All that a step can do to the control registers. -/
theorem step_effect {s t : State} (h : step s = .next t) : StepEffect s t := by
  rcases step_turn h with ⟨-, _, _, move⟩ | ⟨rest, agenda, rfl⟩ | ⟨a, rest, agenda, move⟩
  · exact move.effect
  · exact .clear ⟨rfl, ⟨rest, .inl agenda⟩, rfl, rfl, .inr ⟨rest, agenda, rfl⟩, rfl, rfl, rfl, rfl, rfl⟩
  · exact move.effect agenda

theorem writeCmd_zero (s : State) : writeCmd 0 s = .next (clear s) := rfl

/-- CLR's word clears, when the access that carries it is one the interface defines. -/
theorem eq_clear_of_hostAccess {a : Access} {s t : State} (write : a.dir = .write) (offset : a.offset = 0x00)
    (data : a.data = 0) (h : hostAccess a s = .next t) : t = clear s := by
  unfold hostAccess at h
  simp only [write, offset, data] at h
  split_ifs at h
  exact Host.Outcome.next.inj (h.symm.trans (writeCmd_zero s))

theorem counts_eq_zero_of_clearIsNext {s t : State} (next : ClearIsNext s) (h : step s = .next t) :
    t.inCount = 0 ∧ t.outCount = 0 := by
  obtain ⟨rest, agenda | ⟨a, agenda, write, offset, data⟩⟩ := next <;> simp only [step, takeTurn, agenda] at h
  · cases h; exact ⟨rfl, rfl⟩
  · rw [eq_clear_of_hostAccess write offset data h]; exact ⟨rfl, rfl⟩

theorem Startable.phase_ne_run {s : State} (h : Startable s) : s.phase ≠ .run := by
  rcases h with h | ⟨h, -⟩ <;> simp [h]

/-- Only a command start goes from a state that may start a command to RUN. -/
theorem StepEffect.starts {s t : State} (effect : StepEffect s t) (startable : Startable s) (run : t.phase = .run) :
    Starts s t := by
  cases effect with
  | start effect => exact effect
  | progress effect =>
    rcases effect.phase with phase | ⟨phase, -⟩
    · exact absurd (phase ▸ run) startable.phase_ne_run
    · exact absurd phase startable.phase_ne_run
  | error effect => exact absurd (effect.phase ▸ run) (by decide)
  | clear effect => exact absurd (effect.phase ▸ run) (by decide)

/-- Settles O24, by the effect of a step. -/
theorem errorRecordChangesOnlyThere : Obligations.ErrorRecordChangesOnlyThere := by
  intro s t h
  cases step_effect h with
  | progress effect => exact .inl ⟨effect.errcode, effect.errIndex⟩
  | error effect => exact .inr (.inl ⟨effect.active, effect.phase, effect.errcode, effect.errIndex, effect.inCount⟩)
  | start effect =>
    exact .inr (.inr ⟨effect.errcode, effect.errIndex, .inl ⟨effect.phase, effect.startable.phase_ne_run⟩⟩)
  | clear effect => exact .inr (.inr ⟨effect.errcode, effect.errIndex, .inr effect.phase⟩)

/-- Settles O30: a clearing turn zeroes the counters whatever access carries it; every other step counts by its effect. -/
theorem countersNeverWrap : Obligations.CountersNeverWrap := by
  intro s t h
  refine ⟨?zeroed, fun other => ?counted⟩
  case zeroed =>
    rintro (next | ⟨startable, run⟩)
    · exact counts_eq_zero_of_clearIsNext next h
    · have effect := (step_effect h).starts startable run
      exact ⟨effect.inCount, effect.outCount⟩
  case counted =>
    cases step_effect h with
    | progress effect => exact ⟨effect.inCount, effect.outCount⟩
    | error effect => exact ⟨.inl effect.inCount, .inl effect.outCount⟩
    | start effect => exact absurd (.inr ⟨effect.startable, effect.phase⟩) other
    | clear effect => exact absurd (.inl effect.next) other

/-- Settles O31, by the effect of a step. -/
theorem lenChangesOnlyByWriteOrReset : Obligations.LenChangesOnlyByWriteOrReset := by
  intro s t h
  cases step_effect h with
  | progress effect => exact ⟨effect.len.imp_right .inl, .inl effect.lenS⟩
  | error effect => exact ⟨.inl effect.len, .inl effect.lenS⟩
  | start effect => exact ⟨.inl effect.len, .inr (.inl ⟨effect.startable, effect.phase, effect.lenS⟩)⟩
  | clear effect => exact ⟨effect.len.imp_right .inr, .inr (.inr ⟨effect.phase, effect.lenS⟩)⟩

/-- Settles O32, by the effect of a step. -/
theorem phaseTransitionsAndOpreg : Obligations.PhaseTransitionsAndOpreg := by
  intro s t h
  cases step_effect h with
  | progress effect =>
    refine ⟨?_, .inl effect.opreg⟩
    rcases effect.phase with same | ⟨run, done⟩
    · rw [same]; cases s.phase <;> decide
    · rw [run, done]; decide
  | error effect =>
    refine ⟨?_, .inl effect.opreg⟩
    have active := effect.active
    rw [effect.phase]
    revert active
    cases s.phase <;> decide
  | start effect =>
    refine ⟨?_, .inr (.inr ⟨effect.phase, effect.startable, effect.opreg⟩)⟩
    rw [effect.phase]
    rcases effect.startable with idle | ⟨done, -⟩
    · rw [idle]; decide
    · rw [done]; decide
  | clear effect =>
    refine ⟨?_, .inr (.inl ⟨effect.phase, effect.opreg⟩)⟩
    rw [effect.phase]
    cases s.phase <;> decide

end Sys2Proof.Machine

/-! PROOF. The invariant of the block. A consume step keeps the running command's record in the widths of 10_state.md R48,
command by command; the rest of the invariant is kept by each move of the engine, of the host and of the platform. -/
namespace Sys2Proof.Machine

/-! ### The record of the running command -/

theorem fitsS_zero (n : Nat) : FitsS n 0 := by
  have positive : (0 : Int) < 2 ^ (n - 1) := by positivity
  simp only [FitsS]
  omega

theorem qsZero_ok : qsZero.Ok 0 :=
  ⟨by decide, fitsS_zero 64, fitsS_zero 64, fitsS_zero 64, fitsS_zero 64, fitsS_zero 64, by simp, by simp, by simp⟩

theorem qjZero_ok {n : Nat} (h : 0 = n % 4) : qjZero.Ok 0 n :=
  ⟨by decide, h, fitsS_zero 32, fitsS_zero 16, fitsS_zero 16⟩

theorem initOf_recordOk {i : Instr} {lenS : Word} {d : Datapath} (h : initOf i lenS = some d) : RecordOk i lenS 0 d := by
  cases i <;> cases h
  case vpack16 | vpack32 => rfl
  case vunpack16 | vunpack32 => exact ⟨_, rfl, by simp [VDec.Ok, vdecInit]⟩
  case dpack => exact ⟨_, rfl, by decide⟩
  case dunpack => exact ⟨_, _, rfl, by simp [VDec.Ok, vdecInit], by decide⟩
  case rleenc => exact ⟨_, rfl, by simp [REnc.Ok, rleInit]⟩
  case rledec => exact ⟨_, rfl, by simp [RDec.Ok]⟩
  case qsplit => exact ⟨_, _, rfl, qsZero_ok⟩
  case qjoin => exact ⟨_, _, rfl, qjZero_ok rfl⟩

theorem elementValue_fits (w : Word) : FitsS 64 (elementValue w) := by
  have lower := BitVec.le_toInt w
  have upper := BitVec.toInt_lt (x := w)
  simp only [FitsS, elementValue]
  omega

section
variable {c : Config} {lenS : Word} {n w : Nat} {e : Int} {d' : Datapath} {outs : List Int}

theorem packElement_ok (h : packElement w e = .ok (d', outs)) : d' = .vp := by
  obtain ⟨v, -, h⟩ := check_eq_ok h
  cases h; rfl

theorem unpackByte_recordOk {r : VDec} (hw : w = 16 ∨ w = 32) (ok : r.Ok w) (h : unpackByte w r e = .ok (d', outs)) :
    ∃ r', d' = .vd r' ∧ r'.Ok w := by
  obtain ⟨b, byte, h⟩ := check_eq_ok h
  cases h
  exact ⟨_, rfl, vdecStep_ok hw ((checkByte_ok byte).1 ▸ byte_lt e) ok rfl⟩

theorem dpackConsume_recordOk {prev : Int} (h : dpackConsume c (.dp prev) e = .ok (d', outs)) :
    ∃ prev', d' = .dp prev' ∧ FitsS 16 prev' := by
  obtain ⟨v, signed, h⟩ := check_eq_ok h
  obtain ⟨diff, -, h⟩ := check_eq_ok h
  cases h
  obtain ⟨rfl, fits⟩ := checkSigned_ok signed
  exact ⟨_, rfl, fits⟩

theorem dunpackConsume_recordOk {r : VDec} {sum : Int} (ok : r.Ok 16) (fits : FitsS 16 sum)
    (h : dunpackConsume c (.du r sum) e = .ok (d', outs)) :
    ∃ r' sum', d' = .du r' sum' ∧ r'.Ok 16 ∧ FitsS 16 sum' := by
  obtain ⟨b, byte, h⟩ := check_eq_ok h
  have step_ok {r' : VDec} {v : Option Int} (hs : vdecStep 16 r b = (r', v)) : r'.Ok 16 :=
    vdecStep_ok (.inl rfl) ((checkByte_ok byte).1 ▸ byte_lt e) ok hs
  split at h
  next r' inside => cases h; exact ⟨_, _, rfl, step_ok inside, fits⟩
  next r' diff complete =>
    obtain ⟨v, fit, h⟩ := check_eq_ok h
    cases h
    exact ⟨_, _, rfl, step_ok complete, (dfit_ok fit).1⟩

/-- The transition table of 43_rle.md R189 keeps previous end, gap and length adding up to the elements consumed. -/
theorem encodeState_recordOk {r : REnc} {v : Nat} (ok : r.Ok n) (hv : v ≤ 255)
    (h : encodeState r v n = .ok (d', outs)) : ∃ r', d' = .re r' ∧ r'.Ok (n + 1) := by
  obtain ⟨closed, opened⟩ := ok
  unfold encodeState at h
  split at h
  next inRun =>
    obtain ⟨cur_pos, cur_le, rlen_pos, total⟩ := opened inRun
    split_ifs at h with same pos
    · cases h
      exact ⟨_, rfl, by simp [inRun], fun _ => ⟨cur_pos, cur_le, by dsimp; omega, by dsimp; omega⟩⟩
    · obtain ⟨triple, -, h⟩ := check_eq_ok h
      cases h
      exact ⟨_, rfl, by simp, fun _ => ⟨pos, hv, le_rfl, rfl⟩⟩
    · obtain ⟨triple, -, h⟩ := check_eq_ok h
      cases h
      exact ⟨_, rfl, fun _ => ⟨rfl, rfl, rfl, n.le_succ⟩, by simp⟩
  next noRun =>
    obtain ⟨cur, rlen, gap, mark⟩ := closed noRun
    split_ifs at h with pos <;> cases h
    · exact ⟨_, rfl, by simp, fun _ => ⟨pos, hv, le_rfl, by dsimp; omega⟩⟩
    · exact ⟨_, rfl, fun _ => ⟨cur, rlen, gap, mark.trans n.le_succ⟩, by simp [noRun]⟩

theorem rleencConsume_recordOk {r : REnc} (ok : r.Ok n) (h : rleencConsume (.re r) e n = .ok (d', outs)) :
    ∃ r', d' = .re r' ∧ r'.Ok (n + 1) := by
  obtain ⟨v, state, h⟩ := check_eq_ok h
  exact encodeState_recordOk ok (checkState_ok state).2 h

theorem rledecConsume_recordOk {r : RDec} (ok : r.Ok lenS n) (h : rledecConsume (.rd r) e = .ok (d', outs)) :
    ∃ r', d' = .rd r' ∧ r'.Ok lenS (n + 1) := by
  obtain ⟨wcnt_le, wcnt, g_le, l_le, outn_le, hn⟩ := ok
  obtain ⟨v, word, h⟩ := check_eq_ok h
  have v_le := (checkU16_ok word).2
  unfold decodeTriple at h
  split_ifs at h with first second corrupt long <;> cases h
  · exact ⟨_, rfl, one_le_two, by dsimp; omega, v_le, l_le, outn_le, hn⟩
  · exact ⟨_, rfl, le_rfl, by dsimp; omega, g_le, v_le, outn_le, hn⟩
  · exact ⟨_, rfl, Nat.zero_le _, by dsimp; omega, Nat.zero_le _, Nat.zero_le _, not_lt.mp long, hn⟩

theorem qsplitConsume_recordOk {fcnt : Nat} {f : QSFields} (ok : f.Ok fcnt) (fits : FitsS 64 e)
    (h : qsplitConsume c (.qs fcnt f) e = .ok (d', outs)) : ∃ fcnt' f', d' = .qs fcnt' f' ∧ f'.Ok fcnt' := by
  obtain ⟨fcnt_le, t, xm, xe, ym, ye, t_stored, xe_stored, ye_stored⟩ := ok
  interval_cases fcnt
  · simp only [qsplitConsume, splitTag] at h
    split_ifs at h <;> cases h
    all_goals exact ⟨_, _, rfl, by decide, t, xm, xe, ym, ye, by simp, by simp, by simp⟩
  · obtain ⟨t', time, h⟩ := check_eq_ok h
    cases h
    have t_fits := tconv_ok time
    exact ⟨_, _, rfl, by decide, by simp only [FitsS] at *; omega, xm, xe, ym, ye, fun _ => t_fits, by simp, by simp⟩
  · cases h
    exact ⟨_, _, rfl, by decide, t, fits, xe, ym, ye, fun _ => t_stored le_rfl, by simp, by simp⟩
  · obtain ⟨x, exponent, h⟩ := check_eq_ok h
    cases h
    obtain ⟨rfl, range⟩ := checkExponent_ok exponent
    exact ⟨_, _, rfl, by decide, t, xm, fits, ym, ye, fun _ => t_stored (by decide), fun _ => range, by simp⟩
  · cases h
    exact ⟨_, _, rfl, by decide, t, xm, xe, fits, ye, fun _ => t_stored (by decide), fun _ => xe_stored le_rfl, by simp⟩
  · obtain ⟨y, exponent, h⟩ := check_eq_ok h
    cases h
    obtain ⟨rfl, range⟩ := checkExponent_ok exponent
    exact ⟨_, _, rfl, by decide, t, xm, xe, ym, fits, fun _ => t_stored (by decide), fun _ => xe_stored (by decide),
      fun _ => range⟩
  · cases h
    exact ⟨_, _, rfl, qsZero_ok⟩

theorem qjoinConsume_recordOk {fcnt : Nat} {f : QJFields} (ok : f.Ok fcnt n)
    (h : qjoinConsume (.qj fcnt f) e = .ok (d', outs)) : ∃ fcnt' f', d' = .qj fcnt' f' ∧ f'.Ok fcnt' (n + 1) := by
  obtain ⟨fcnt_le, fcnt_eq, t, x, y⟩ := ok
  interval_cases fcnt <;> obtain ⟨v, class_ok, h⟩ := check_eq_ok h <;> cases h
  · obtain ⟨rfl, fits⟩ := checkSigned_ok class_ok
    exact ⟨_, _, rfl, by decide, by omega, fits, x, y⟩
  · obtain ⟨rfl, fits⟩ := checkSigned_ok class_ok
    exact ⟨_, _, rfl, by decide, by omega, t, fits, y⟩
  · obtain ⟨rfl, fits⟩ := checkSigned_ok class_ok
    exact ⟨_, _, rfl, by decide, by omega, t, x, fits⟩
  · exact ⟨_, _, rfl, qjZero_ok (by omega)⟩

/-- A consume function keeps its command's record inside the widths of 10_state.md R48. -/
theorem consumeOf_recordOk {i : Instr} {d : Datapath} (ok : RecordOk i lenS n d) (fits : FitsS 64 e)
    (h : consumeOf c i d e n = .ok (d', outs)) : RecordOk i lenS (n + 1) d' := by
  cases i
  case clr => exact ok
  case vpack16 | vpack32 => cases ok; exact packElement_ok h
  case vunpack16 => obtain ⟨r, rfl, ok⟩ := ok; exact unpackByte_recordOk (.inl rfl) ok h
  case vunpack32 => obtain ⟨r, rfl, ok⟩ := ok; exact unpackByte_recordOk (.inr rfl) ok h
  case dpack => obtain ⟨prev, rfl, -⟩ := ok; exact dpackConsume_recordOk h
  case dunpack => obtain ⟨r, sum, rfl, ok, sum_fits⟩ := ok; exact dunpackConsume_recordOk ok sum_fits h
  case rleenc => obtain ⟨r, rfl, ok⟩ := ok; exact rleencConsume_recordOk ok h
  case rledec => obtain ⟨r, rfl, ok⟩ := ok; exact rledecConsume_recordOk ok h
  case qsplit => obtain ⟨fcnt, f, rfl, ok⟩ := ok; exact qsplitConsume_recordOk ok fits h
  case qjoin => obtain ⟨fcnt, f, rfl, ok⟩ := ok; exact qjoinConsume_recordOk ok h

end

/-! ### The moves -/

section
variable {s t : State}

/-- LEN and the model's own lists are not in the invariant. -/
theorem Inv.withHostSide (inv : Inv s) (len : Word) (agenda : List Turn) (round : Nat) (reads : List Response) :
    Inv { s with len := len, agenda := agenda, round := round, reads := reads } :=
  { inv with }

theorem inv_resetWith {c : Config} (allowed : c.WellFormed) : Inv (State.resetWith c) := by
  constructor
  case parameters => exact allowed
  all_goals simp [State.resetWith]

theorem inv_hardReset (inv : Inv s) : Inv (hardReset s) :=
  (inv_resetWith inv.parameters).withHostSide _ _ _ _

theorem inv_clear (inv : Inv s) : Inv (clear s) :=
  (inv_resetWith inv.parameters).withHostSide _ _ _ _

theorem inv_raise (k : ErrKind) (inv : Inv s) : Inv (raise k s.inCount s) where
  parameters := inv.parameters
  inRoom := Nat.zero_le _
  outRoom := Nat.zero_le _
  idle := by simp
  noError := by simp
  running := by simp
  finished fin := ⟨(inv.finished fin).1, rfl⟩
  done := by simp
  error := by simp
  counted := by simp

theorem inv_start {i : Instr} {init : Word → Datapath} (hinit : initOf i s.len = some (init s.len)) (inv : Inv s) :
    Inv (start (opcode i) init s) where
  parameters := inv.parameters
  inRoom := Nat.zero_le _
  outRoom := Nat.zero_le _
  idle := by simp
  noError _ := ⟨rfl, rfl⟩
  running _ := ⟨i, init s.len, decodeOp_opcode i, rfl, initOf_recordOk hinit⟩
  finished := by simp
  done := by simp
  error := by simp
  counted _ := Nat.zero_le _

theorem inv_transfer {w : Word} {rest : List Word} (enabled : TransferEnabled s) (below : s.outCount ≠ countMax)
    (inv : Inv s) : Inv { s with outFifo := s.outFifo ++ [w], pending := rest, outCount := s.outCount + 1 } := by
  obtain ⟨run, -, room⟩ := enabled
  have counted := inv.counted (.inl run)
  exact { inv with
    outRoom := by simpa using room
    idle := by simp [run]
    done := by simp [run]
    error := by simp [run]
    counted := fun _ => by rw [toNat_add_one below]; simpa using counted }

theorem inv_consume {w : Word} {rest pending : List Word} {d : Datapath} {outs : List Int} (enabled : ConsumeEnabled s)
    (head : s.inFifo = w :: rest) (below : s.inCount ≠ countMax)
    (result : consumeRunning s (elementValue w) = .ok (d, outs)) (inv : Inv s) :
    Inv { s with inFifo := rest, dp := some d, pending := pending, inCount := s.inCount + 1 } := by
  obtain ⟨run, -, unfinished, -⟩ := enabled
  obtain ⟨i, old, op, dp, ok⟩ := inv.running run
  have room := inv.inRoom
  simp only [consumeRunning, op, dp] at result
  have kept := consumeOf_recordOk ok (elementValue_fits w) result
  rw [← toNat_add_one below] at kept
  exact { inv with
    inRoom := by simp only [head, List.length_cons] at room; dsimp; omega
    idle := by simp [run]
    running := fun _ => ⟨i, d, op, rfl, kept⟩
    finished := by simp [unfinished]
    done := by simp [run]
    error := by simp [run] }

theorem inv_finish {pending : List Word} (enabled : FinishEnabled s) (inv : Inv s) :
    Inv { s with pending := pending, fin := true } := by
  obtain ⟨run, -, -, empty, ended⟩ := enabled
  exact { inv with
    idle := by simp [run]
    finished := fun _ => ⟨ended, empty⟩
    done := by simp [run]
    error := by simp [run] }

theorem inv_complete (enabled : CompleteEnabled s) (inv : Inv s) : Inv { s with phase := .done } := by
  obtain ⟨run, fin, empty⟩ := enabled
  exact { inv with
    idle := by simp
    noError := fun _ => inv.noError (by simp [run])
    running := by simp
    done := fun _ => ⟨fin, empty⟩
    error := by simp
    counted := fun _ => inv.counted (.inl run) }

theorem EngineMove.inv (move : EngineMove s t) (inv : Inv s) : Inv t := by
  cases move with
  | wait => exact inv
  | error k => exact inv_raise k inv
  | transfer w rest enabled _ below => exact inv_transfer enabled below inv
  | consume w rest d outs enabled head below result => exact inv_consume enabled head below result inv
  | finish outs enabled => exact inv_finish enabled inv
  | complete enabled => exact inv_complete enabled inv

theorem inv_pop {w : Word} {rest : List Word} (head : s.outFifo = w :: rest) (inv : Inv s) :
    Inv { s with outFifo := rest } := by
  have shorter : rest.length ≤ s.outFifo.length := by simp [head]
  have nonempty : s.outFifo ≠ [] := by simp [head]
  exact { inv with
    outRoom := shorter.trans inv.outRoom
    idle := fun idle => absurd (inv.idle idle).2.2.2.1 nonempty
    error := fun err => absurd (inv.error err).2.2.2.1 nonempty
    counted := fun active => shorter.trans (inv.counted active) }

theorem inv_push {w : Word} (run : s.phase = .run) (notEnded : s.endFlag = false) (room : s.inFifo.length ≠ s.cfg.inDepth)
    (inv : Inv s) : Inv { s with inFifo := s.inFifo ++ [w] } := by
  have unfinished : s.fin ≠ true := fun fin => by simpa [notEnded] using (inv.finished fin).1
  exact { inv with
    inRoom := by simpa using lt_of_le_of_ne inv.inRoom room
    idle := by simp [run]
    finished := fun fin => absurd fin unfinished
    error := by simp [run] }

theorem inv_endInput (run : s.phase = .run) (inv : Inv s) : Inv { s with endFlag := true } :=
  { inv with
    idle := by simp [run]
    finished := fun fin => ⟨rfl, (inv.finished fin).2⟩ }

theorem HostMove.inv {a : Access} (move : HostMove a s t) (inv : Inv s) : Inv t := by
  cases move with
  | ignored => exact inv
  | read | len => exact inv.withHostSide _ _ _ _
  | pop w rest _ _ head => exact (inv_pop head inv).withHostSide _ _ _ _
  | popError => exact (inv_raise _ inv).withHostSide _ _ _ _
  | clr => exact inv_clear inv
  | start i init _ _ _ _ hinit => exact inv_start (hinit _) inv
  | illegal | protocol => exact inv_raise _ inv
  | push _ _ run notEnded room => exact inv_push run notEnded room inv
  | endInput _ _ run => exact inv_endInput run inv

end

/-- Settles O35, by whose turn the step is. -/
theorem everyStepKeepsTheInvariant : Obligations.EveryStepKeepsTheInvariant := by
  intro s t inv h
  have inv_turn (agenda : List Turn) (round : Nat) : Inv { s with agenda := agenda, round := round } :=
    inv.withHostSide _ _ _ _
  rcases step_turn h with ⟨-, agenda, round, move⟩ | ⟨rest, -, rfl⟩ | ⟨a, rest, -, move⟩
  · exact move.inv (inv_turn agenda round)
  · exact inv_hardReset (inv_turn rest s.round)
  · exact move.inv (inv_turn rest s.round)

/-- Settles O34: the standard parameters are allowed, and every field of STATUS is 0. -/
theorem resetMeetsTheInvariant : Obligations.ResetMeetsTheInvariant :=
  ⟨inv_resetWith (by decide), by decide⟩

end Sys2Proof.Machine

/-! PROOF. WINDOW_BASE (20_memory.md R71): every operation of a step gives the same answer for a block at another base. -/
namespace Sys2Proof.Machine

/-- The same block at another base. -/
def State.atBase (b : Nat) (s : State) : State := { s with cfg := { s.cfg with windowBase := b } }

/-- The same answer of a block at another base: its next state is at that base too. -/
def Result.atBase (b : Nat) : Result → Result
  | .next s => .next (s.atBase b)
  | .fault f => .fault f
  | .refused r => .refused r

section
variable (b : Nat) (s : State)

theorem atBase_ite (p : Prop) [Decidable p] (x y : Result) :
    Result.atBase b (if p then x else y) = if p then Result.atBase b x else Result.atBase b y :=
  apply_ite _ _ _ _

theorem consumeRunning_atBase (e : Int) : consumeRunning (s.atBase b) e = consumeRunning s e := by
  have same (i : Instr) (d : Datapath) (n : Nat) :
      consumeOf { s.cfg with windowBase := b } i d e n = consumeOf s.cfg i d e n := by cases i <;> rfl
  simp only [consumeRunning, State.atBase, same]

theorem transferStep_atBase : transferStep (s.atBase b) = Result.atBase b (transferStep s) := by
  simp only [transferStep, State.atBase]
  split
  · rfl
  · rw [atBase_ite]; rfl

theorem consumeStep_atBase : consumeStep (s.atBase b) = Result.atBase b (consumeStep s) := by
  simp only [consumeStep, consumeRunning_atBase]
  simp only [State.atBase]
  split
  · rfl
  · rw [atBase_ite]
    refine if_congr Iff.rfl rfl ?_
    split <;> rfl

theorem finishStep_atBase : finishStep (s.atBase b) = Result.atBase b (finishStep s) := by
  have same : finishRunning (s.atBase b) = finishRunning s := rfl
  simp only [finishStep, same]
  split <;> rfl

theorem engineTurn_atBase : engineTurn (s.atBase b) = Result.atBase b (engineTurn s) := by
  simp only [engineTurn, atBase_ite, transferStep_atBase, consumeStep_atBase, finishStep_atBase]
  rfl

theorem startCommand_atBase (op : BitVec 8) (init : Word → Datapath) :
    startCommand op init (s.atBase b) = Result.atBase b (startCommand op init s) := by
  simp only [startCommand, atBase_ite]
  rfl

theorem exec_atBase (i : Instr) : exec i (s.atBase b) = Result.atBase b (exec i s) := by
  cases i
  case clr => rfl
  all_goals exact startCommand_atBase b s _ _

theorem writeCmd_atBase (w : Word) : writeCmd w (s.atBase b) = Result.atBase b (writeCmd w s) := by
  unfold writeCmd
  split
  · exact exec_atBase b s _
  · rw [atBase_ite]; rfl

theorem writeInData_atBase (w : Word) : writeInData w (s.atBase b) = (writeInData w s).atBase b := by
  simp only [writeInData, apply_ite (State.atBase b)]
  rfl

theorem writeInEnd_atBase : writeInEnd (s.atBase b) = (writeInEnd s).atBase b := by
  simp only [writeInEnd, apply_ite (State.atBase b)]
  rfl

theorem readOutData_atBase : readOutData (s.atBase b) = (readOutData s).atBase b := by
  have same : (s.atBase b).outFifo = s.outFifo := rfl
  unfold readOutData
  rw [same]
  split
  · rfl
  · rw [apply_ite (State.atBase b)]; rfl

theorem busWrite_atBase (off : Nat) (w : Word) : busWrite off w (s.atBase b) = Result.atBase b (busWrite off w s) := by
  unfold busWrite
  split
  · exact writeCmd_atBase b s w
  · rfl
  · rw [writeInData_atBase]; rfl
  · rw [writeInEnd_atBase]; rfl
  · rfl

theorem busRead_atBase (off : Nat) : busRead off (s.atBase b) = Result.atBase b (busRead off s) := by
  unfold busRead
  split
  · rw [readOutData_atBase]; rfl
  · rfl

theorem hostAccess_atBase (a : Access) : hostAccess a (s.atBase b) = Result.atBase b (hostAccess a s) := by
  simp only [hostAccess, atBase_ite]
  cases a.dir <;> simp only [busWrite_atBase, busRead_atBase] <;> rfl

theorem step_atBase : step (s.atBase b) = Result.atBase b (step s) := by
  simp only [step, takeTurn]
  have agenda : (s.atBase b).agenda = s.agenda := rfl
  rw [agenda]
  cases s.agenda with
  | nil => exact engineTurn_atBase b (refill s)
  | cons turn rest =>
    cases turn with
    | engine => exact engineTurn_atBase b { s with agenda := rest }
    | reset => rfl
    | access a => exact hostAccess_atBase b { s with agenda := rest } a

end

/-- Settles O33: the effect of a step keeps the parameters, and each operation commutes with a change of the base. -/
theorem parametersAreFixedAndTheBaseIsIrrelevant : Obligations.ParametersAreFixedAndTheBaseIsIrrelevant := by
  intro s t b h
  refine ⟨?fixed, ?irrelevant⟩
  case fixed =>
    cases step_effect h with
    | progress effect | error effect | start effect | clear effect => exact effect.cfg
  case irrelevant => exact (step_atBase b s).trans (congrArg (Result.atBase b) h)

end Sys2Proof.Machine

/-! PROOF. STATUS (10_state.md R36 and R37): where its fields stand, and what its two ready flags promise. -/
namespace Sys2Proof.Machine

section
variable {s t : State}

theorem outValid_iff : outValid s = true ↔ s.outFifo ≠ [] := by simp [outValid]

theorem inReady_iff : inReady s = true ↔ s.phase = .run ∧ s.endFlag = false ∧ s.inFifo.length < s.cfg.inDepth := by
  simp [inReady]

/-- An engine turn that does not enter ERR takes nothing out of OUTFIFO. -/
theorem EngineMove.outValid (move : EngineMove s t) (valid : outValid s = true) : outValid t = true ∨ t.phase = .err := by
  rw [outValid_iff] at *
  cases move with
  | wait | consume | finish | complete => exact .inl valid
  | error => exact .inr rfl
  | transfer => exact .inl (by simp)

/-- An engine turn that does not enter ERR puts nothing into INFIFO, and completes only after the end of the input. -/
theorem EngineMove.inReady (inv : Inv s) (move : EngineMove s t) (ready : inReady s = true) :
    inReady t = true ∨ t.phase = .err := by
  rw [inReady_iff] at *
  obtain ⟨run, notEnded, room⟩ := ready
  cases move with
  | wait | transfer | finish => exact .inl ⟨run, notEnded, room⟩
  | error => exact .inr rfl
  | consume w rest _ _ _ head =>
    simp only [head, List.length_cons] at room
    exact .inl ⟨run, notEnded, by dsimp; omega⟩
  | complete enabled => simpa [notEnded] using (inv.finished enabled.2.1).1

/-- A read the interface defines is dispatched by its offset (40_engine.md R122). -/
theorem hostAccess_read64 {off : Nat} (s : State) (aligned : off % 8 = 0) (inside : off < windowBytes) :
    hostAccess (.read64 off) s = busRead off s := by
  simp [hostAccess, Access.read64, aligned, inside.not_ge]

/-- A write the interface defines is dispatched by its offset (40_engine.md R122). -/
theorem hostAccess_write64 {off : Nat} (w : Word) (s : State) (aligned : off % 8 = 0) (inside : off < windowBytes) :
    hostAccess (.write64 off w) s = busWrite off w s := by
  simp [hostAccess, Access.write64, aligned, inside.not_ge]

theorem hostAccess_read_outData (s : State) : hostAccess (.read64 0x28) s = .next (readOutData s) :=
  hostAccess_read64 s (by decide) (by decide)

theorem hostAccess_write_inData (w : Word) (s : State) : hostAccess (.write64 0x18 w) s = .next (writeInData w s) :=
  hostAccess_write64 w s (by decide) (by decide)

theorem readOutData_cons {w : Word} {rest : List Word} (head : s.outFifo = w :: rest) :
    readOutData s = { s with outFifo := rest, reads := s.reads ++ [⟨0x28, w⟩] } := by
  simp [readOutData, head, respond]

theorem readOutData_err (empty : s.outFifo = []) (err : s.phase = .err) :
    readOutData s = { s with reads := s.reads ++ [⟨0x28, 0⟩] } := by
  simp [readOutData, empty, err, respond]

theorem writeInData_err (w : Word) (err : s.phase = .err) : writeInData w s = s := by
  simp [writeInData, err]

theorem writeInData_ready (w : Word) (ready : inReady s = true) :
    writeInData w s = { s with inFifo := s.inFifo ++ [w] } := by
  obtain ⟨run, notEnded, room⟩ := inReady_iff.mp ready
  simp [writeInData, run, notEnded, room.ne]

end

/-- Settles O19: the promises are the ready cases of the two port operations; an engine turn keeps them or enters ERR,
where the invariant has emptied OUTFIFO. -/
theorem readyFlagsAreGuarantees : Obligations.ReadyFlagsAreGuarantees := by
  intro s t inv h
  have move := engineTurn_move h
  refine ⟨fun valid => ?pops, fun ready w => ?takes, fun valid => ?staysValid, fun ready => ?staysReady⟩
  case pops =>
    obtain ⟨w, rest, head⟩ := List.exists_cons_of_ne_nil (outValid_iff.mp valid)
    exact ⟨w, rest, head, by rw [hostAccess_read_outData, readOutData_cons head]⟩
  case takes => rw [hostAccess_write_inData, writeInData_ready w ready]
  case staysValid =>
    refine (move.outValid valid).imp_right fun err => ⟨err, ?_⟩
    obtain ⟨-, -, -, empty, -⟩ := (move.inv inv).error err
    rw [hostAccess_read_outData, readOutData_err empty err]
  case staysReady =>
    refine (move.inReady inv ready).imp_right fun err => ⟨err, fun w => ?_⟩
    rw [hostAccess_write_inData, writeInData_err w err]

section
variable (opreg : BitVec 8) (errcode : BitVec 4) (fin ready valid ended : Bool) (phase : BitVec 2)

/-- The layout of STATUS (10_state.md R36) over the contents of its fields. The width is left as the sum of the fields', so
that the lemmas on `++` apply to it. -/
def statusLayout : BitVec (40 + 8 + 4 + 4 + 2 + 1 + 1 + 1 + 1 + 2) :=
  (0#40) ++ opreg ++ (0#4) ++ errcode ++ (0#2) ++ BitVec.ofBool fin ++ BitVec.ofBool ready ++ BitVec.ofBool valid ++
    BitVec.ofBool ended ++ phase

theorem statusWord_eq_layout (s : State) : statusWord s =
    statusLayout s.opreg (errField s.errcode) s.fin (inReady s) (outValid s) s.endFlag s.phase.code := rfl

/-- The one-bit fields, below which stand PHASE and the lower flags. -/
theorem statusLayout_flags :
    (statusLayout opreg errcode fin ready valid ended phase).getLsbD 2 = ended ∧
    (statusLayout opreg errcode fin ready valid ended phase).getLsbD 3 = valid ∧
    (statusLayout opreg errcode fin ready valid ended phase).getLsbD 4 = ready ∧
    (statusLayout opreg errcode fin ready valid ended phase).getLsbD 5 = fin := by
  simp only [statusLayout, BitVec.getLsbD_append, -Nat.reduceAdd]
  simp [-Nat.reduceAdd]

/-- A field of several bits is found by dropping the fields below it, then those above it. -/
theorem statusLayout_fields :
    (statusLayout opreg errcode fin ready valid ended phase).extractLsb' 0 2 = phase ∧
    (statusLayout opreg errcode fin ready valid ended phase).extractLsb' 6 2 = 0#2 ∧
    (statusLayout opreg errcode fin ready valid ended phase).extractLsb' 8 4 = errcode ∧
    (statusLayout opreg errcode fin ready valid ended phase).extractLsb' 12 4 = 0#4 ∧
    (statusLayout opreg errcode fin ready valid ended phase).extractLsb' 16 8 = opreg ∧
    (statusLayout opreg errcode fin ready valid ended phase).extractLsb' 24 40 = 0#40 := by
  refine ⟨?_, ?_, ?_, ?_, ?_, ?_⟩ <;>
    simp (disch := decide) only [statusLayout, BitVec.extractLsb'_append_eq_of_le, BitVec.extractLsb'_append_eq_right,
      BitVec.extractLsb'_eq_self, Nat.reduceSub, -Nat.reduceAdd]

end

theorem statusLayout_zero : statusLayout 0 0 false false false false 0 = 0 := by decide

theorem Phase.code_eq (p : Phase) :
    p.code = match p with | .idle => 0#2 | .run => 1#2 | .done => 2#2 | .err => 3#2 := by
  cases p <;> rfl

theorem outValid_eq (s : State) : outValid s = decide (1 ≤ s.outFifo.length) := by
  simp [outValid, Nat.one_le_iff_ne_zero]

/-- Settles O18: the fields by the layout, the accesses by their dispatch, the reset value by evaluation. -/
theorem statusFieldsStandAtTheirBits : Obligations.StatusFieldsStandAtTheirBits := by
  refine ⟨fun s => ?fields, fun s w => ⟨?read, ?write⟩, fun c => ?reset⟩
  case fields =>
    rw [statusWord_eq_layout, ← outValid_eq]
    obtain ⟨ended, valid, ready, fin⟩ := statusLayout_flags s.opreg (errField s.errcode) s.fin (inReady s) (outValid s)
      s.endFlag s.phase.code
    obtain ⟨phase, low, errcode, middle, opreg, high⟩ := statusLayout_fields s.opreg (errField s.errcode) s.fin (inReady s)
      (outValid s) s.endFlag s.phase.code
    exact ⟨phase.trans (Phase.code_eq s.phase), ended, valid, ready, fin, low, errcode, middle, opreg, high⟩
  case read => rw [hostAccess_read64 s (by decide) (by decide)]; rfl
  case write => rw [hostAccess_write64 w s (by decide) (by decide)]; rfl
  case reset =>
    have notReady : inReady (State.resetWith c) = false := by simp [inReady, State.resetWith]
    rw [statusWord_eq_layout, notReady]
    exact statusLayout_zero

end Sys2Proof.Machine

/-! PROOF. The accesses of the register window (20_memory.md R72 and R73): which of them have a next state, and what a read
or a write does at an offset that has no register for that direction. -/
namespace Sys2Proof.Machine

section
variable {a : Access} (s : State) (w : Word)

/-! ### Every access the interface defines has a next state -/

theorem exec_next (i : Instr) : ∃ t, exec i s = .next t := by
  by_cases command : i = .clr
  · subst command; exact ⟨clear s, rfl⟩
  · obtain ⟨init, -, starts⟩ := exec_eq_startCommand command s
    rw [starts]
    rcases startCommand_cases (op := opcode i) (init := init) s with ⟨-, next⟩ | ⟨-, next⟩ | ⟨-, next⟩ <;>
      exact ⟨_, next⟩

theorem writeCmd_next : ∃ t, writeCmd w s = .next t := by
  unfold writeCmd
  split
  · exact exec_next s _
  · split <;> exact ⟨_, rfl⟩

theorem busWrite_next (off : Nat) : ∃ t, busWrite off w s = .next t := by
  unfold busWrite
  split
  · exact writeCmd_next s w
  all_goals exact ⟨_, rfl⟩

theorem busRead_next (off : Nat) : ∃ t, busRead off s = .next t := by
  unfold busRead
  split <;> exact ⟨_, rfl⟩

theorem hostAccess_next (defined : a.WellFormed) : ∃ t, hostAccess a s = .next t := by
  obtain ⟨width, aligned, inside⟩ := defined
  rw [hostAccess, if_neg (not_not.mpr width), if_neg (not_not.mpr aligned), if_neg inside.not_ge]
  cases a.dir with
  | write => exact busWrite_next s a.data a.offset
  | read => exact busRead_next s a.offset

/-! ### The refusals, in the order the model looks for them -/

theorem hostAccess_otherWidth (width : a.width ≠ 64) : hostAccess a s = .refused .accessWidth :=
  if_pos width

theorem hostAccess_misaligned (width : a.width = 64) (misaligned : a.offset % 8 ≠ 0) :
    hostAccess a s = .refused .accessMisaligned := by
  rw [hostAccess, if_neg (not_not.mpr width), if_pos misaligned]

theorem hostAccess_outside (width : a.width = 64) (aligned : a.offset % 8 = 0) (outside : windowBytes ≤ a.offset) :
    hostAccess a s = .refused .accessOutsideWindow := by
  rw [hostAccess, if_neg (not_not.mpr width), if_neg (not_not.mpr aligned), if_pos outside]

/-! ### Offsets without a register for the direction of the access (10_state.md R34) -/

/-- Only the six readable registers hold a value. -/
theorem registerValue_unreadable {off : Nat} (unreadable : off ∉ [0x08, 0x10, 0x28, 0x30, 0x38, 0x40]) :
    registerValue off s = 0 := by
  unfold registerValue
  split
  case h_7 => rfl
  all_goals exact absurd (by decide) unreadable

/-- Only a read of OUT_DATA has an effect (40_engine.md R127). -/
theorem busRead_plain {off : Nat} (other : off ≠ 0x28) :
    busRead off s = .next (respond off (registerValue off s) s) := by
  unfold busRead
  split
  · exact absurd rfl other
  · rfl

theorem busRead_unreadable {off : Nat} (unreadable : off ∉ [0x08, 0x10, 0x28, 0x30, 0x38, 0x40]) :
    busRead off s = .next (respond off 0 s) := by
  have other : off ≠ 0x28 := by rintro rfl; exact unreadable (by decide)
  rw [busRead_plain s other, registerValue_unreadable s unreadable]

/-- Only the four writable registers are written. -/
theorem busWrite_unwritable {off : Nat} (unwritable : off ∉ [0x00, 0x10, 0x18, 0x20]) :
    busWrite off w s = .next s := by
  unfold busWrite
  split
  case h_5 => rfl
  all_goals exact absurd (by decide) unwritable

end

/-- Settles O13: a defined access is dispatched, and each operation of the dispatch answers a next state; any other is
refused at the first of the three conditions it misses. -/
theorem undefinedAccessesAreRefused : Obligations.UndefinedAccessesAreRefused := by
  intro a s
  refine ⟨hostAccess_next s, fun undefined => ?_⟩
  by_cases width : a.width = 64
  · by_cases aligned : a.offset % 8 = 0
    · have outside : windowBytes ≤ a.offset := not_lt.mp fun inside => undefined ⟨width, aligned, inside⟩
      exact .inr (.inr ⟨hostAccess_outside s width aligned outside, outside⟩)
    · exact .inr (.inl ⟨hostAccess_misaligned s width aligned, aligned⟩)
  · exact .inl ⟨hostAccess_otherWidth s width, width⟩

/-- Settles O17: the offsets named for each direction are none of those with a register for it. -/
theorem reservedOffsetsAndAccessDirection : Obligations.ReservedOffsetsAndAccessDirection := by
  intro s w off aligned inside
  refine ⟨fun offset => ?read, fun offset => ?write⟩
  case read =>
    have unreadable : off ∉ [0x08, 0x10, 0x28, 0x30, 0x38, 0x40] := by
      simp only [List.mem_cons, List.not_mem_nil, or_false]
      omega
    exact (hostAccess_read64 s aligned inside).trans (busRead_unreadable s unreadable)
  case write =>
    have unwritable : off ∉ [0x00, 0x10, 0x18, 0x20] := by
      simp only [List.mem_cons, List.not_mem_nil, or_false]
      omega
    exact (hostAccess_write64 w s aligned inside).trans (busWrite_unwritable s w unwritable)

end Sys2Proof.Machine

/-! PROOF. The command word (30_encoding.md R90 to R93): the decoder undoes the encoder and accepts nothing else, and what
a write of any other word does. -/
namespace Sys2Proof.Machine

section
variable {w : Word} {k : DecodeError}

/-! ### The fields of a word of the table, and the decoder by its fields -/

@[simp] theorem reservedField_encode (i : Instr) : reservedField (encode i) = 0 := by cases i <;> decide

@[simp] theorem opField_encode (i : Instr) : opField (encode i) = opcode i := by cases i <;> decide

@[simp] theorem decode_encode (i : Instr) : decode (encode i) = .ok i := by simp [decode]

/-- R90: each row of the table matches exactly one word. -/
theorem decode_eq_ok_iff {i : Instr} : decode w = .ok i ↔ w = encode i :=
  ⟨eq_encode_of_decode, by rintro rfl; exact decode_encode i⟩

theorem exists_decode_eq_error_iff :
    (∃ k, decode w = .error k) ↔ reservedField w ≠ 0 ∨ decodeOp (opField w) = none := by
  unfold decode
  by_cases reserved : reservedField w = 0
  · cases decodeOp (opField w) <;> simp [reserved]
  · exact iff_of_true ⟨.reservedBits, if_pos reserved⟩ (.inl reserved)

/-- R92: the OP values between the rows of the table and above the last. -/
theorem decodeOp_eq_none_iff {op : BitVec 8} :
    decodeOp op = none ↔
      (0x01 ≤ op.toNat ∧ op.toNat ≤ 0x0F) ∨ (0x14 ≤ op.toNat ∧ op.toNat ≤ 0x1F) ∨
      (0x22 ≤ op.toNat ∧ op.toNat ≤ 0x2F) ∨ (0x32 ≤ op.toNat ∧ op.toNat ≤ 0x3F) ∨ 0x42 ≤ op.toNat := by
  unfold decodeOp
  split
  case h_12 => simp only [imp_false, true_iff] at *; omega
  all_goals simp only [reduceCtorEq, false_iff]; omega

/-! ### The write of a word that is no command (40_engine.md R123) -/

theorem hostAccess_write_cmd (w : Word) (s : State) : hostAccess (.write64 0x00 w) s = writeCmd w s :=
  hostAccess_write64 w s (by decide) (by decide)

theorem writeCmd_illegal (s : State) (illegal : decode w = .error k) :
    writeCmd w s = if s.phase = .err then .next s else .next (raise .illegalCommand s.inCount s) := by
  simp only [writeCmd, illegal]

end

/-- Settles O2: the round trip is `decode_eq_ok_iff`; the eleven words are the encoder's values. -/
theorem commandWordSelectsExactlyOneRow : Obligations.CommandWordSelectsExactlyOneRow :=
  ⟨fun _ _ => decode_eq_ok_iff, rfl, rfl, rfl, rfl, rfl, rfl, rfl, rfl, rfl, rfl, rfl⟩

/-- Settles O3: a word is refused for its reserved field or for an OP in a gap of the table; its write is error entry. -/
theorem illegalCommandWordsAndTheirWrite : Obligations.IllegalCommandWordsAndTheirWrite := by
  refine fun w => ⟨?words, fun k s illegal => ?write⟩
  case words => rw [exists_decode_eq_error_iff, decodeOp_eq_none_iff]
  case write => rw [hostAccess_write_cmd, writeCmd_illegal s illegal]; rfl

/-- Settles O1: the six words are encodings; the two others are refused by evaluation. -/
theorem wordsOfTheTableDecode : Obligations.WordsOfTheTableDecode :=
  ⟨decode_encode .clr, decode_encode .vpack16, decode_encode .vunpack32, decode_encode .dunpack, decode_encode .rledec,
    decode_encode .qjoin, rfl, rfl⟩

end Sys2Proof.Machine

/-! PROOF. The varint code (30_encoding.md R100 to R103, 41_varint.md R150 to R152): the two forms of a code, one equation
for each branch of the decoder, and the value a code stands for. -/
namespace Sys2Proof.Machine

section
variable {w b : Nat} {v : Int}

/-! ### The forms of a code -/

@[simp] theorem asr_zero (v : Int) : asr v 0 = v := by simp [asr]

theorem vcode_literal (w : Nat) (literal : -127 ≤ v ∧ v ≤ 127) : vcode w v = [byte v] := if_pos literal

theorem vcode_escape (w : Nat) (escaped : ¬ (-127 ≤ v ∧ v ≤ 127)) :
    vcode w v = 0x80 :: (List.range (payloadBytes w)).map fun k => byte (asr v (8 * k)) := if_neg escaped

/-- Of the signed bytes only -128 has the pattern of the escape byte. -/
theorem byte_ne_escByte (literal : -127 ≤ v ∧ v ≤ 127) : byte v ≠ 0x80 := by
  unfold byte; omega

/-- The range of a width in units of its last byte. -/
theorem fitsS_iff_of_top_byte (wide : 8 ≤ w) :
    FitsS w v ↔ -128 * 2 ^ (w - 8) ≤ v ∧ v < 128 * 2 ^ (w - 8) := by
  have span : (2 : Int) ^ (w - 1) = 128 * 2 ^ (w - 8) := by
    rw [show w - 1 = 7 + (w - 8) by omega, pow_add]; norm_num
  rw [FitsS, span]
  omega

/-- R100: the last payload byte needs no mask. -/
theorem asr_top_byte (wide : 8 ≤ w) (fits : FitsS w v) : -128 ≤ asr v (w - 8) ∧ asr v (w - 8) ≤ 127 := by
  obtain ⟨lower, upper⟩ := (fitsS_iff_of_top_byte wide).mp fits
  have pos : (0 : Int) < 2 ^ (w - 8) := by positivity
  exact ⟨Int.le_ediv_of_mul_le pos lower, Int.lt_add_one_iff.mp (Int.ediv_lt_of_lt_mul pos upper)⟩

/-! ### The branches of the decoder -/

theorem s8_bounds (hb : b < 256) : -128 ≤ s8 b ∧ s8 b ≤ 127 := by
  simp only [s8, sext]; split <;> omega

theorem s8_ne_of_ne_escByte (hb : b < 256) (literal : b ≠ 0x80) : s8 b ≠ -128 := by
  simp only [s8, sext]; split <;> omega

theorem vdecStep_escByte (w : Nat) : vdecStep w vdecInit 0x80 = (⟨true, 0, 0⟩, none) := rfl

theorem vdecStep_literal (w : Nat) (literal : b ≠ 0x80) : vdecStep w vdecInit b = (vdecInit, some (s8 b)) := by
  simp [vdecStep, vdecInit, escByte, literal]

/-- A payload byte before the last is added at its place. -/
theorem vdecStep_payload {k acc : Nat} (more : k < payloadBytes w - 1) :
    vdecStep w ⟨true, k, acc⟩ b = (⟨true, k + 1, acc + b * 2 ^ (8 * k)⟩, none) := by
  simp [vdecStep, more]

/-- The last payload byte carries the sign and completes the value. -/
theorem vdecStep_lastPayload {k acc : Nat} (last : ¬ k < payloadBytes w - 1) :
    vdecStep w ⟨true, k, acc⟩ b = (vdecInit, some ((acc : Int) + s8 b * 2 ^ (8 * k))) := by
  simp [vdecStep, vdecInit, last]

/-! ### The value of a code -/

theorem decodeStream_literal (w : Nat) (literal : b ≠ 0x80) : decodeStream w vdecInit [b] = (vdecInit, [s8 b]) := by
  simp [decodeStream, vdecStep_literal w literal, decoded]

theorem decodeStream_escape16 (p0 p1 : Nat) :
    decodeStream 16 vdecInit [0x80, p0, p1] = (vdecInit, [(p0 : Int) + s8 p1 * 256]) := by
  simp (disch := decide) [decodeStream, vdecStep_escByte, vdecStep_payload, vdecStep_lastPayload, decoded]

theorem decodeStream_escape32 (p0 p1 p2 p3 : Nat) :
    decodeStream 32 vdecInit [0x80, p0, p1, p2, p3] =
      (vdecInit, [(p0 : Int) + p1 * 2 ^ 8 + p2 * 2 ^ 16 + s8 p3 * 2 ^ 24]) := by
  simp (disch := decide) [decodeStream, vdecStep_escByte, vdecStep_payload, vdecStep_lastPayload, decoded]

/-- A value of unsigned low bits and a signed byte above them fits the width they have together. -/
theorem fitsS_of_top_byte {low : Int} (wide : 8 ≤ w) (nonneg : 0 ≤ low) (below : low < 2 ^ (w - 8)) (hb : b < 256) :
    FitsS w (low + s8 b * 2 ^ (w - 8)) := by
  obtain ⟨lower, upper⟩ := s8_bounds hb
  have pos : (0 : Int) < 2 ^ (w - 8) := by positivity
  have least := mul_le_mul_of_nonneg_right lower pos.le
  have greatest := mul_le_mul_of_nonneg_right upper pos.le
  rw [fitsS_iff_of_top_byte wide]
  constructor <;> linarith

end

/-- Settles O41: the decoder's equations give the values; the signed last byte bounds them. -/
theorem varintValueAssembly : Obligations.VarintValueAssembly := by
  refine ⟨fun w b _ hb literal => ?literal, fun p0 p1 h0 h1 => ?escape16, fun p0 p1 p2 p3 h0 h1 h2 h3 => ?escape32⟩
  case literal =>
    obtain ⟨lower, upper⟩ := s8_bounds hb
    have sign := s8_ne_of_ne_escByte hb literal
    exact ⟨decodeStream_literal w literal, by omega, upper⟩
  case escape16 =>
    exact ⟨decodeStream_escape16 p0 p1, fitsS_of_top_byte (w := 16) (by decide) (by omega) (by norm_num; omega) h1⟩
  case escape32 =>
    exact ⟨decodeStream_escape32 p0 p1 p2 p3,
      fitsS_of_top_byte (w := 32) (by decide) (by omega) (by norm_num; omega) h3⟩

/-- Settles O40: the two branches of `vcode`, the payload listed for the two widths. -/
theorem varintCodeForms : Obligations.VarintCodeForms := by
  refine ⟨fun w v lower upper => ?literal, fun v fits escaped => ?escape16, fun v fits escaped => ?escape32⟩
  case literal => exact ⟨vcode_literal w ⟨lower, upper⟩, byte_ne_escByte ⟨lower, upper⟩, byte_lt v⟩
  case escape16 =>
    exact ⟨by simp [vcode_escape 16 escaped, payloadBytes, List.range_succ], asr_top_byte (by decide) fits⟩
  case escape32 =>
    exact ⟨by simp [vcode_escape 32 escaped, payloadBytes, List.range_succ], asr_top_byte (by decide) fits⟩

end Sys2Proof.Machine

/-! PROOF. The engine (40_engine.md section 3): which of its four steps has the turn, what each of them does, and that no
step of it faults from the invariant (R121, R130 to R134). -/
namespace Sys2Proof.Machine

section
variable {s : State}

/-! ### The guards exclude one another (40_engine.md R121) -/

theorem not_transferEnabled_of_drained (drained : s.pending = []) : ¬ TransferEnabled s :=
  fun ⟨_, pending, _⟩ => pending drained

theorem not_consumeEnabled_of_noInput (empty : s.inFifo = []) : ¬ ConsumeEnabled s :=
  fun ⟨_, _, _, input⟩ => input empty

theorem not_completeEnabled_of_unfinished (unfinished : s.fin = false) : ¬ CompleteEnabled s :=
  fun ⟨_, finished, _⟩ => by simp [unfinished] at finished

theorem engineTurn_of_transfer (enabled : TransferEnabled s) : engineTurn s = transferStep s := if_pos enabled

theorem engineTurn_of_consume (enabled : ConsumeEnabled s) : engineTurn s = consumeStep s := by
  obtain ⟨-, drained, -⟩ := id enabled
  rw [engineTurn, if_neg (not_transferEnabled_of_drained drained), if_pos enabled]

theorem engineTurn_of_finish (enabled : FinishEnabled s) : engineTurn s = finishStep s := by
  obtain ⟨-, drained, -, empty, -⟩ := id enabled
  rw [engineTurn, if_neg (not_transferEnabled_of_drained drained), if_neg (not_consumeEnabled_of_noInput empty),
    if_pos enabled]

theorem engineTurn_of_complete (enabled : CompleteEnabled s) : engineTurn s = .next { s with phase := .done } := by
  obtain ⟨-, finished, drained⟩ := id enabled
  have noConsume : ¬ ConsumeEnabled s := fun ⟨_, _, unfinished, _⟩ => by simp [finished] at unfinished
  have noFinish : ¬ FinishEnabled s := fun ⟨_, _, unfinished, _⟩ => by simp [finished] at unfinished
  rw [engineTurn, if_neg (not_transferEnabled_of_drained drained), if_neg noConsume, if_neg noFinish, if_pos enabled,
    completeStep]

/-- No step of the engine is enabled. -/
def EngineWaits (s : State) : Prop :=
  ¬ TransferEnabled s ∧ ¬ ConsumeEnabled s ∧ ¬ FinishEnabled s ∧ ¬ CompleteEnabled s

theorem engineTurn_of_waits (waits : EngineWaits s) : engineTurn s = .next s := by
  obtain ⟨noTransfer, noConsume, noFinish, noComplete⟩ := waits
  rw [engineTurn, if_neg noTransfer, if_neg noConsume, if_neg noFinish, if_neg noComplete]

theorem engineWaits_of_phase (notRun : s.phase ≠ .run) : EngineWaits s :=
  ⟨fun enabled => notRun enabled.1, fun enabled => notRun enabled.1, fun enabled => notRun enabled.1,
    fun enabled => notRun enabled.1⟩

/-- Whose the engine's turn is. -/
theorem engine_cases (s : State) :
    TransferEnabled s ∨ ConsumeEnabled s ∨ FinishEnabled s ∨ CompleteEnabled s ∨ EngineWaits s := by
  unfold EngineWaits
  tauto

/-- Settles O25: PENDING, FIN and INFIFO tell the guards apart. -/
theorem atMostOneEngineStepIsEnabled : Obligations.AtMostOneEngineStepIsEnabled := by
  intro s
  refine ⟨?run, fun ⟨transfer, consume⟩ => ?_, fun ⟨transfer, finish⟩ => ?_, fun ⟨transfer, complete⟩ => ?_,
    fun ⟨consume, finish⟩ => ?_, fun ⟨consume, complete⟩ => ?_, fun ⟨finish, complete⟩ => ?_,
    fun notRun => engineTurn_of_waits (engineWaits_of_phase notRun)⟩
  case run => rintro (enabled | enabled | enabled | enabled) <;> exact enabled.1
  · obtain ⟨-, drained, -⟩ := consume
    exact not_transferEnabled_of_drained drained transfer
  · obtain ⟨-, drained, -⟩ := finish
    exact not_transferEnabled_of_drained drained transfer
  · obtain ⟨-, -, drained⟩ := complete
    exact not_transferEnabled_of_drained drained transfer
  · obtain ⟨-, -, -, empty, -⟩ := finish
    exact not_consumeEnabled_of_noInput empty consume
  · obtain ⟨-, -, unfinished, -⟩ := consume
    exact not_completeEnabled_of_unfinished unfinished complete
  · obtain ⟨-, -, unfinished, -⟩ := finish
    exact not_completeEnabled_of_unfinished unfinished complete

/-! ### The steps (40_engine.md R130 to R132) -/

theorem transferStep_cons {w : Word} {rest : List Word} (head : s.pending = w :: rest) :
    transferStep s =
      if s.outCount = countMax then .next (raise .rangeOverflow s.inCount s)
      else .next { s with outFifo := s.outFifo ++ [w], pending := rest, outCount := s.outCount + 1 } := by
  simp only [transferStep, head]

variable {i : Instr} {d d' : Datapath} {w : Word} {rest : List Word} {outs : List Int} {k : ErrKind}

theorem consumeRunning_eq (op : decodeOp s.opreg = some i) (dp : s.dp = some d) (e : Int) :
    consumeRunning s e = consumeOf s.cfg i d e s.inCount.toNat := by
  simp only [consumeRunning, op, dp]

theorem finishRunning_eq (op : decodeOp s.opreg = some i) (dp : s.dp = some d) :
    finishRunning s = finishOf i d s.inCount.toNat := by
  simp only [finishRunning, op, dp]

theorem consumeStep_overflow (head : s.inFifo = w :: rest) (atEnd : s.inCount = countMax) :
    consumeStep s = .next (raise .rangeOverflow s.inCount s) := by
  simp only [consumeStep, head, if_pos atEnd]

theorem consumeStep_error (head : s.inFifo = w :: rest) (below : s.inCount ≠ countMax)
    (result : consumeRunning s (elementValue w) = .error k) : consumeStep s = .next (raise k s.inCount s) := by
  simp only [consumeStep, head, if_neg below, result]

theorem consumeStep_ok (head : s.inFifo = w :: rest) (below : s.inCount ≠ countMax)
    (result : consumeRunning s (elementValue w) = .ok (d', outs)) :
    consumeStep s = .next { s with
      inFifo := rest, dp := some d', pending := s.pending ++ outs.map elementWord, inCount := s.inCount + 1 } := by
  simp only [consumeStep, head, if_neg below, result]

theorem finishStep_error (result : finishRunning s = .error k) : finishStep s = .next (raise k s.inCount s) := by
  simp only [finishStep, result]

theorem finishStep_ok (result : finishRunning s = .ok outs) :
    finishStep s = .next { s with pending := s.pending ++ outs.map elementWord, fin := true } := by
  simp only [finishStep, result]

end

/-- Settles O27: the transfer step on a PENDING that is not empty. -/
theorem transferStepMovesOneElement : Obligations.TransferStepMovesOneElement := by
  intro s w rest enabled head
  simp only [engineTurn_of_transfer enabled, transferStep_cons head, eq_countMax_iff]

/-- Settles O28: the consume step by what the command's consume function answers; PENDING is empty when it is enabled. -/
theorem consumeStepTakesOneElement : Obligations.ConsumeStepTakesOneElement := by
  intro s w rest i d enabled head op dp
  obtain ⟨-, drained, -⟩ := id enabled
  rw [engineTurn_of_consume enabled, ne_eq, ← eq_countMax_iff]
  refine ⟨consumeStep_overflow head, fun below => ⟨fun k result => ?_, fun d' outs result => ?_⟩⟩
  · exact consumeStep_error head below ((consumeRunning_eq op dp _).trans result)
  · rw [consumeStep_ok head below ((consumeRunning_eq op dp _).trans result), drained, List.nil_append]
    rfl

/-- Settles O29: the finish step by what the command's finish function answers, and the complete step. -/
theorem finishAndCompleteSteps : Obligations.FinishAndCompleteSteps := by
  refine fun s => ⟨fun i d enabled op dp => ?_, engineTurn_of_complete⟩
  obtain ⟨-, drained, -⟩ := id enabled
  rw [engineTurn_of_finish enabled]
  refine ⟨fun k result => finishStep_error ((finishRunning_eq op dp).trans result), fun outs result => ?_⟩
  rw [finishStep_ok ((finishRunning_eq op dp).trans result), drained, List.nil_append]
  rfl

/-! ### No fault (40_engine.md R134) -/

section
variable {s : State} {c : Config} {i : Instr} {lenS : Word} {n : Nat} {d : Datapath} {e : Int}

theorem encodeState_ne_mismatch (r : REnc) (v n : Nat) : encodeState r v n ≠ .mismatch := by
  intro h
  unfold encodeState at h
  split at h
  next =>
    split_ifs at h <;> obtain ⟨triple, -, h⟩ := check_eq_mismatch h <;> cases h
  next => split_ifs at h

/-- A consume function knows its command's own record. -/
theorem consumeOf_ne_mismatch (ok : RecordOk i lenS n d) : consumeOf c i d e n ≠ .mismatch := by
  intro h
  cases i
  case clr => exact ok
  case vpack16 | vpack32 =>
    cases ok
    obtain ⟨v, -, h⟩ := check_eq_mismatch h
    cases h
  case vunpack16 | vunpack32 =>
    obtain ⟨r, rfl, -⟩ := ok
    obtain ⟨b, -, h⟩ := check_eq_mismatch h
    cases h
  case dpack =>
    obtain ⟨prev, rfl, -⟩ := ok
    obtain ⟨v, -, h⟩ := check_eq_mismatch h
    obtain ⟨diff, -, h⟩ := check_eq_mismatch h
    cases h
  case dunpack =>
    obtain ⟨r, sum, rfl, -⟩ := ok
    obtain ⟨b, -, h⟩ := check_eq_mismatch h
    split at h
    next => cases h
    next =>
      obtain ⟨v, -, h⟩ := check_eq_mismatch h
      cases h
  case rleenc =>
    obtain ⟨r, rfl, -⟩ := ok
    obtain ⟨v, -, h⟩ := check_eq_mismatch h
    exact encodeState_ne_mismatch r v n h
  case rledec =>
    obtain ⟨r, rfl, -⟩ := ok
    obtain ⟨v, -, h⟩ := check_eq_mismatch h
    unfold decodeTriple at h
    split_ifs at h
  case qsplit =>
    obtain ⟨fcnt, f, rfl, -⟩ := ok
    simp only [consumeOf, qsplitConsume, splitTag, splitRecord] at h
    split at h
    case h_1 => split_ifs at h
    case h_2 | h_4 | h_6 => obtain ⟨v, -, h⟩ := check_eq_mismatch h; cases h
    all_goals cases h
  case qjoin =>
    obtain ⟨fcnt, f, rfl, -⟩ := ok
    simp only [consumeOf, qjoinConsume] at h
    split at h <;> obtain ⟨v, -, h⟩ := check_eq_mismatch h <;> cases h

/-- A finish function knows its command's own record. -/
theorem finishOf_ne_mismatch (ok : RecordOk i lenS n d) : finishOf i d n ≠ .mismatch := by
  intro h
  cases i
  case clr => exact ok
  case vpack16 | vpack32 => cases ok; cases h
  case vunpack16 | vunpack32 =>
    obtain ⟨r, rfl, -⟩ := ok
    simp only [finishOf, vunpack16Finish, vunpack32Finish, atCodeBoundary] at h
    split_ifs at h
  case dpack =>
    obtain ⟨prev, rfl, -⟩ := ok
    simp only [finishOf, dpackFinish] at h
    split_ifs at h
  case dunpack =>
    obtain ⟨r, sum, rfl, -⟩ := ok
    simp only [finishOf, dunpackFinish, atCodeBoundary] at h
    split_ifs at h
  case rleenc =>
    obtain ⟨r, rfl, -⟩ := ok
    simp only [finishOf, rleencFinish] at h
    split at h
    next => obtain ⟨outs, -, h⟩ := check_eq_mismatch h; cases h
    next => cases h
  case rledec =>
    obtain ⟨r, rfl, -⟩ := ok
    simp only [finishOf, rledecFinish] at h
    split_ifs at h
  case qsplit =>
    obtain ⟨fcnt, f, rfl, -⟩ := ok
    simp only [finishOf, qsplitFinish] at h
    split_ifs at h
  case qjoin =>
    obtain ⟨fcnt, f, rfl, -⟩ := ok
    simp only [finishOf, qjoinFinish] at h
    split_ifs at h

/-- With the record of the running command in DP every engine turn has a next state. -/
theorem engineTurn_next (running : s.phase = .run → ∃ i d, decodeOp s.opreg = some i ∧ s.dp = some d ∧
    RecordOk i s.lenS s.inCount.toNat d) : ∃ t, engineTurn s = .next t := by
  rcases engine_cases s with enabled | enabled | enabled | enabled | waits
  · obtain ⟨-, pending, -⟩ := id enabled
    obtain ⟨w, rest, head⟩ := List.exists_cons_of_ne_nil pending
    rw [engineTurn_of_transfer enabled, transferStep_cons head]
    split_ifs <;> exact ⟨_, rfl⟩
  · obtain ⟨run, -, -, input⟩ := id enabled
    obtain ⟨w, rest, head⟩ := List.exists_cons_of_ne_nil input
    obtain ⟨i, d, op, dp, ok⟩ := running run
    rw [engineTurn_of_consume enabled]
    by_cases atEnd : s.inCount = countMax
    · exact ⟨_, consumeStep_overflow head atEnd⟩
    · cases result : consumeRunning s (elementValue w) with
      | ok reply => exact ⟨_, consumeStep_ok head atEnd result⟩
      | error k => exact ⟨_, consumeStep_error head atEnd result⟩
      | mismatch => exact absurd ((consumeRunning_eq op dp _).symm.trans result) (consumeOf_ne_mismatch ok)
  · obtain ⟨i, d, op, dp, ok⟩ := running enabled.1
    rw [engineTurn_of_finish enabled]
    cases result : finishRunning s with
    | ok outs => exact ⟨_, finishStep_ok result⟩
    | error k => exact ⟨_, finishStep_error result⟩
    | mismatch => exact absurd ((finishRunning_eq op dp).symm.trans result) (finishOf_ne_mismatch ok)
  · exact ⟨_, engineTurn_of_complete enabled⟩
  · exact ⟨_, engineTurn_of_waits waits⟩

end

end Sys2Proof.Machine

/-! PROOF. The data ports and the registers (40_engine.md R125 to R127, R129): what each access does, phase by phase, and how
a host access ends the engine's waiting (R135). -/
namespace Sys2Proof.Machine

section
variable {s : State}

/-! ### The ports -/

theorem writeInData_rejected (w : Word) (active : s.phase ≠ .err)
    (rejected : s.phase ≠ .run ∨ s.endFlag = true ∨ s.inFifo.length = s.cfg.inDepth) :
    writeInData w s = raise .protocolError s.inCount s := by
  rw [writeInData, if_neg active, if_pos rejected]

theorem writeInData_accepted (w : Word) (run : s.phase = .run) (notEnded : s.endFlag = false)
    (room : s.inFifo.length ≠ s.cfg.inDepth) : writeInData w s = { s with inFifo := s.inFifo ++ [w] } := by
  simp [writeInData, run, notEnded, room]

theorem writeInEnd_err (err : s.phase = .err) : writeInEnd s = s := if_pos err

theorem writeInEnd_rejected (active : s.phase ≠ .err) (rejected : s.phase ≠ .run ∨ s.endFlag = true) :
    writeInEnd s = raise .protocolError s.inCount s := by
  rw [writeInEnd, if_neg active, if_pos rejected]

theorem writeInEnd_accepted (run : s.phase = .run) (notEnded : s.endFlag = false) :
    writeInEnd s = { s with endFlag := true } := by
  simp [writeInEnd, run, notEnded]

theorem readOutData_quiet (empty : s.outFifo = []) (quiet : s.phase = .idle ∨ s.phase = .err) :
    readOutData s = respond 0x28 0 s := by
  simp only [readOutData, empty, if_pos quiet]

theorem readOutData_rejected (empty : s.outFifo = []) (active : s.phase = .run ∨ s.phase = .done) :
    readOutData s = respond 0x28 0 (raise .protocolError s.inCount s) := by
  have notQuiet : ¬ (s.phase = .idle ∨ s.phase = .err) := by rcases active with phase | phase <;> simp [phase]
  simp only [readOutData, empty, if_neg notQuiet]

theorem hostAccess_write_inEnd (w : Word) (s : State) : hostAccess (.write64 0x20 w) s = .next (writeInEnd s) :=
  hostAccess_write64 w s (by decide) (by decide)

end

/-- Settles O14, by the cases of the two port operations. -/
theorem inputPortWrites : Obligations.InputPortWrites := by
  intro w s
  rw [hostAccess_write_inData, hostAccess_write_inEnd]
  refine ⟨fun err => ?ignored, fun active rejected => ?dataError, fun run notEnded room => ?data,
    fun active rejected => ?endError, fun run notEnded => ?endInput⟩
  case ignored => rw [writeInData_err w err, writeInEnd_err err]; exact ⟨rfl, rfl⟩
  case dataError => rw [writeInData_rejected w active rejected]
  case data => rw [writeInData_accepted w run notEnded room]
  case endError => rw [writeInEnd_rejected active rejected]
  case endInput => rw [writeInEnd_accepted run notEnded]

/-- Settles O15: the three cases of the OUT_DATA read. -/
theorem outDataRead : Obligations.OutDataRead := by
  intro s
  rw [hostAccess_read_outData]
  refine ⟨fun w rest head => ?pop, fun empty quiet => ?quiet, fun empty active => ?active⟩
  case pop => rw [readOutData_cons head]
  case quiet => rw [readOutData_quiet empty quiet]; rfl
  case active => rw [readOutData_rejected empty active]; rfl

/-- Settles O16: LEN's write and the five plain reads, by their dispatch. -/
theorem lenWriteAndRegisterReads : Obligations.LenWriteAndRegisterReads := by
  refine fun s => ⟨fun w => hostAccess_write64 w s (by decide) (by decide), fun off v register => ?_⟩
  simp only [List.mem_cons, Prod.mk.injEq, List.not_mem_nil, or_false] at register
  rcases register with ⟨rfl, rfl⟩ | ⟨rfl, rfl⟩ | ⟨rfl, rfl⟩ | ⟨rfl, rfl⟩ | ⟨rfl, rfl⟩ <;>
    exact hostAccess_read64 s (by decide) (by decide)

/-! ### Waiting (40_engine.md R135) -/

/-- PENDING cannot go on: the host must read. -/
abbrev OutputBlocked (s : State) : Prop := s.pending ≠ [] ∧ s.outFifo.length = s.cfg.outDepth

/-- The engine has nothing to do until the host writes an element or ends the input. -/
abbrev InputAwaited (s : State) : Prop := s.pending = [] ∧ s.fin = false ∧ s.inFifo = [] ∧ s.endFlag = false

section
variable {s : State}

theorem engineWaits_iff (inv : Inv s) (run : s.phase = .run) : EngineWaits s ↔ OutputBlocked s ∨ InputAwaited s := by
  have room := inv.outRoom
  constructor
  · rintro ⟨noTransfer, noConsume, noFinish, noComplete⟩
    by_cases drained : s.pending = []
    · have unfinished : s.fin = false := by
        by_contra finished
        exact noComplete ⟨run, by simpa using finished, drained⟩
      have empty : s.inFifo = [] := by
        by_contra input
        exact noConsume ⟨run, drained, unfinished, input⟩
      have notEnded : s.endFlag = false := by
        by_contra ended
        exact noFinish ⟨run, drained, unfinished, empty, by simpa using ended⟩
      exact .inr ⟨drained, unfinished, empty, notEnded⟩
    · have full : ¬ s.outFifo.length < s.cfg.outDepth := fun below => noTransfer ⟨run, drained, below⟩
      exact .inl ⟨drained, by omega⟩
  · rintro (⟨pending, full⟩ | ⟨drained, unfinished, empty, notEnded⟩)
    · exact ⟨fun ⟨_, _, below⟩ => by omega, fun ⟨_, drained, _⟩ => pending drained,
        fun ⟨_, drained, _⟩ => pending drained, fun ⟨_, _, drained⟩ => pending drained⟩
    · exact ⟨not_transferEnabled_of_drained drained, not_consumeEnabled_of_noInput empty,
        fun ⟨_, _, _, _, ended⟩ => by simp [notEnded] at ended, not_completeEnabled_of_unfinished unfinished⟩

/-- An OUT_DATA read makes room for the transfer step. -/
theorem transferEnabled_of_read (inv : Inv s) (run : s.phase = .run) (blocked : OutputBlocked s) :
    ∃ t, hostAccess (.read64 0x28) s = .next t ∧ TransferEnabled t := by
  obtain ⟨pending, full⟩ := blocked
  have depth := inv.parameters.2
  obtain ⟨w, rest, head⟩ := List.exists_cons_of_length_pos (l := s.outFifo) (by omega)
  rw [head, List.length_cons] at full
  exact ⟨_, (hostAccess_read_outData s).trans (congrArg _ (readOutData_cons head)), run, pending, by dsimp; omega⟩

/-- An IN_DATA write gives the consume step its element. -/
theorem consumeEnabled_of_write (inv : Inv s) (run : s.phase = .run) (awaited : InputAwaited s) (w : Word) :
    ∃ t, hostAccess (.write64 0x18 w) s = .next t ∧ ConsumeEnabled t := by
  obtain ⟨drained, unfinished, empty, notEnded⟩ := awaited
  have depth := inv.parameters.1
  have room : s.inFifo.length ≠ s.cfg.inDepth := by rw [empty, List.length_nil]; omega
  exact ⟨_, (hostAccess_write_inData w s).trans (congrArg _ (writeInData_accepted w run notEnded room)), run, drained,
    unfinished, by simp⟩

/-- An IN_END write lets the finish step go. -/
theorem finishEnabled_of_end (run : s.phase = .run) (awaited : InputAwaited s) (w : Word) :
    ∃ t, hostAccess (.write64 0x20 w) s = .next t ∧ FinishEnabled t := by
  obtain ⟨drained, unfinished, empty, notEnded⟩ := awaited
  exact ⟨_, (hostAccess_write_inEnd w s).trans (congrArg _ (writeInEnd_accepted run notEnded)), run, drained, unfinished,
    empty, rfl⟩

end

/-- Settles O26: the two waiting cases, and the host access that ends each. -/
theorem engineWaitsInExactlyTwoCases : Obligations.EngineWaitsInExactlyTwoCases := by
  intro s inv run
  have waits_iff := engineWaits_iff inv run
  exact ⟨waits_iff,
    fun blocked => ⟨engineTurn_of_waits (waits_iff.mpr (.inl blocked)), transferEnabled_of_read inv run blocked⟩,
    fun awaited => ⟨engineTurn_of_waits (waits_iff.mpr (.inr awaited)), consumeEnabled_of_write inv run awaited,
      finishEnabled_of_end run awaited⟩⟩

end Sys2Proof.Machine

/-! PROOF. The write of a command word (40_engine.md R123, R124, R128): what CLR clears, what a command starts with, and the
order of the cases. -/
namespace Sys2Proof.Machine

section
variable {s : State} {i : Instr} {d : Datapath}

/-- Every command but CLR has a record to start with. -/
theorem initOf_eq_some (command : i ≠ .clr) (lenS : Word) : ∃ d, initOf i lenS = some d := by
  obtain ⟨init, hinit, -⟩ := exec_eq_startCommand command State.reset
  exact ⟨_, hinit lenS⟩

theorem exec_of_startable (startable : Startable s) (record : initOf i s.len = some d) :
    exec i s = .next { s with
      phase := .run, opreg := opcode i, lenS := s.len, inFifo := [], outFifo := [], pending := [], endFlag := false
      fin := false, inCount := 0, outCount := 0, errcode := none, errIndex := 0, dp := some d } := by
  have command : i ≠ .clr := by rintro rfl; cases record
  have notErr : s.phase ≠ .err := by rcases startable with phase | ⟨phase, -⟩ <;> simp [phase]
  have notBusy : ¬ Busy s := by rcases startable with phase | ⟨phase, empty⟩ <;> simp [*]
  obtain ⟨init, hinit, starts⟩ := exec_eq_startCommand command s
  obtain rfl : init s.len = d := Option.some.inj ((hinit s.len).symm.trans record)
  rw [starts, startCommand, if_neg notErr, if_neg notBusy, start]

theorem exec_of_busy (command : i ≠ .clr) (busy : Busy s) : exec i s = .next (raise .protocolError s.inCount s) := by
  have notErr : s.phase ≠ .err := by rcases busy with phase | ⟨phase, -⟩ <;> simp [phase]
  obtain ⟨init, -, starts⟩ := exec_eq_startCommand command s
  rw [starts, startCommand, if_neg notErr, if_pos busy]

theorem exec_of_err (command : i ≠ .clr) (err : s.phase = .err) : exec i s = .next s := by
  obtain ⟨init, -, starts⟩ := exec_eq_startCommand command s
  rw [starts, startCommand, if_pos err]

theorem startable_of_not_busy (notErr : s.phase ≠ .err) (notBusy : ¬ Busy s) : Startable s := by
  cases phase : s.phase <;> simp_all [Startable]

end

/-- Settles O7: the four rows are starts of their commands. -/
theorem varintCommandsStart : Obligations.VarintCommandsStart := by
  intro s startable i op d row
  simp only [List.mem_cons, Prod.mk.injEq, List.not_mem_nil, or_false] at row
  rcases row with ⟨rfl, rfl, rfl⟩ | ⟨rfl, rfl, rfl⟩ | ⟨rfl, rfl, rfl⟩ | ⟨rfl, rfl, rfl⟩ <;>
    exact exec_of_startable startable rfl

/-- Settles O8: the two rows are starts of their commands. -/
theorem deltaCommandsStart : Obligations.DeltaCommandsStart := by
  intro s startable i op d row
  simp only [List.mem_cons, Prod.mk.injEq, List.not_mem_nil, or_false] at row
  rcases row with ⟨rfl, rfl, rfl⟩ | ⟨rfl, rfl, rfl⟩ <;> exact exec_of_startable startable rfl

/-- Settles O9: the two rows are starts of their commands. -/
theorem runLengthCommandsStart : Obligations.RunLengthCommandsStart := by
  intro s startable i op d row
  simp only [List.mem_cons, Prod.mk.injEq, List.not_mem_nil, or_false] at row
  rcases row with ⟨rfl, rfl, rfl⟩ | ⟨rfl, rfl, rfl⟩ <;> exact exec_of_startable startable rfl

/-- Settles O10: the two rows are starts of their commands. -/
theorem segmenterCommandsStart : Obligations.SegmenterCommandsStart := by
  intro s startable i op d row
  simp only [List.mem_cons, Prod.mk.injEq, List.not_mem_nil, or_false] at row
  rcases row with ⟨rfl, rfl, rfl⟩ | ⟨rfl, rfl, rfl⟩ <;> exact exec_of_startable startable rfl

section
variable {s : State} {w : Word}

/-- In IDLE CLR finds everything as it would leave it. -/
theorem clear_eq_self_of_idle (inv : Inv s) (idle : s.phase = .idle) : clear s = s := by
  obtain ⟨opreg, lenS, inFifo, outFifo, pending, endFlag, fin, inCount, outCount, dp⟩ := inv.idle idle
  obtain ⟨errcode, errIndex⟩ := inv.noError (by simp [idle])
  cases s
  simp_all [clear]

theorem statusWord_clear (s : State) : statusWord (clear s) = 0 := by
  have notReady : inReady (clear s) = false := by simp [inReady]
  rw [statusWord_eq_layout, notReady]
  exact statusLayout_zero

/-- The word 0 is the only one with OP = 0 that is a command's. -/
theorem reservedField_ne_zero_of_clr (op : opField w = 0) (nonzero : w ≠ 0) : reservedField w ≠ 0 :=
  fun reserved => nonzero (word_eq_of_fields (v := 0) (op.trans (by decide)) (reserved.trans (by decide)))

theorem writeCmd_of_no_command (s : State) (illegal : reservedField w ≠ 0 ∨ decodeOp (opField w) = none) :
    writeCmd w s = if s.phase = .err then .next s else .next (raise .illegalCommand s.inCount s) := by
  obtain ⟨k, error⟩ := exists_decode_eq_error_iff.mpr illegal
  exact writeCmd_illegal s error

theorem writeCmd_encode (i : Instr) (s : State) : writeCmd (encode i) s = exec i s := by
  simp only [writeCmd, decode_encode]

theorem encode_injective {i j : Instr} (h : encode i = encode j) : i = j :=
  opcode_injective (by rw [← opField_encode, h, opField_encode])

/-- A word is illegal, or it is a command's. -/
theorem illegal_or_encode (w : Word) :
    (reservedField w ≠ 0 ∨ decodeOp (opField w) = none) ∨ ∃ i, w = encode i := by
  cases decoded : decode w with
  | ok i => exact .inr ⟨i, eq_encode_of_decode decoded⟩
  | error k => exact .inl (exists_decode_eq_error_iff.mp ⟨k, decoded⟩)

end

/-- Settles O6: CLR is `clear`, whose result is the state it names; with OP = 0 any other word is illegal. -/
theorem clrClearsInEveryPhase : Obligations.ClrClearsInEveryPhase := by
  refine ⟨rfl, fun s => ⟨hostAccess_write_cmd 0 s, rfl, statusWord_clear s, fun inv idle => ?idle,
    fun w op nonzero => ?reserved⟩⟩
  case idle => exact congrArg Host.Outcome.next (clear_eq_self_of_idle inv idle)
  case reserved =>
    rw [hostAccess_write_cmd, writeCmd_of_no_command s (.inl (reservedField_ne_zero_of_clr op nonzero))]

/-- Settles O11: an illegal word by its fields, CLR, and any other command by the phase it finds. -/
theorem cmdWriteFollowsTheCaseOrder : Obligations.CmdWriteFollowsTheCaseOrder := by
  intro w s
  rw [hostAccess_write_cmd]
  rcases illegal_or_encode w with illegal | ⟨i, rfl⟩
  · have nonzero : w ≠ 0 := by rintro rfl; exact absurd illegal (by decide)
    rw [writeCmd_of_no_command s illegal, if_neg nonzero, if_pos illegal]
  · have legal : ¬ (reservedField (encode i) ≠ 0 ∨ decodeOp (opField (encode i)) = none) := by simp
    rw [writeCmd_encode, if_neg legal, opField_encode, decodeOp_opcode, Option.bind_some]
    by_cases clr : i = .clr
    · subst clr
      have zero : encode .clr = 0 ∧ opcode .clr = 0 := by decide
      rw [if_pos zero.1, if_pos zero.2, ite_self]
      rfl
    · have nonzero : encode i ≠ 0 := fun zero => clr (encode_injective (j := .clr) zero)
      have op_nonzero : opcode i ≠ 0 := fun zero => clr (opcode_injective zero)
      rw [if_neg nonzero, if_neg op_nonzero]
      split_ifs with err busy
      · exact exec_of_err clr err
      · exact exec_of_busy clr busy
      · obtain ⟨d, record⟩ := initOf_eq_some clr s.len
        rw [record]
        exact exec_of_startable (startable_of_not_busy err busy) record

end Sys2Proof.Machine

/-! PROOF. One turn of a run (40_engine.md R120): a step takes the first turn off the agenda, so the engine's turn comes; and
which steps have a next state (40_engine.md R134, 20_memory.md R72). -/
namespace Sys2Proof.Machine

section
variable {s t : State} {turn : Turn} {rest : List Turn} {a : Access}

theorem step_of_empty (agenda : s.agenda = []) : step s = engineTurn (refill s) := by
  simp only [step, takeTurn, agenda]

theorem step_of_engine (agenda : s.agenda = .engine :: rest) : step s = engineTurn { s with agenda := rest } := by
  simp only [step, takeTurn, agenda]

theorem step_of_reset (agenda : s.agenda = .reset :: rest) : step s = .next (hardReset { s with agenda := rest }) := by
  simp only [step, takeTurn, agenda]

theorem step_of_access (agenda : s.agenda = .access a :: rest) : step s = hostAccess a { s with agenda := rest } := by
  simp only [step, takeTurn, agenda]

/-! ### The turns to come -/

theorem EngineMove.agenda_eq (move : EngineMove s t) : t.agenda = s.agenda := by
  cases move <;> rfl

theorem HostMove.agenda_eq (move : HostMove a s t) : t.agenda = s.agenda := by
  cases move <;> rfl

/-- A step takes off the agenda the turn it gives, and nothing else. -/
theorem step_agenda (agenda : s.agenda = turn :: rest) (h : step s = .next t) : t.agenda = rest := by
  cases turn with
  | engine => exact (engineTurn_move ((step_of_engine agenda).symm.trans h)).agenda_eq
  | reset => cases (step_of_reset agenda).symm.trans h; rfl
  | access a => exact (hostAccess_move ((step_of_access agenda).symm.trans h)).agenda_eq

/-- Weak fairness: while no step stops, the engine has the turn before the agenda has run out. -/
theorem engineIsNext_within (agenda : List Turn) (s : State) (hs : s.agenda = agenda)
    (runs : ∀ k, k ≤ agenda.length → ∃ t, runSteps k s = .next t) :
    ∃ k t, k ≤ agenda.length ∧ runSteps k s = .next t ∧ EngineIsNext t := by
  induction agenda generalizing s with
  | nil => exact ⟨0, s, le_rfl, runSteps_zero s, .inl hs⟩
  | cons turn rest ih =>
    by_cases engine : turn = .engine
    · exact ⟨0, s, Nat.zero_le _, runSteps_zero s, .inr ⟨rest, engine ▸ hs⟩⟩
    · obtain ⟨t, first⟩ := runs 1 (by simp)
      obtain ⟨u, h, -⟩ := exists_step_of_runSteps first
      have onward : ∀ k, k ≤ rest.length → ∃ t, runSteps k u = .next t := by
        intro k hk
        rw [← runSteps_succ_of_step h]
        exact runs (k + 1) (by simpa using hk)
      obtain ⟨k, v, hk, run, next⟩ := ih u (step_agenda hs h) onward
      exact ⟨k + 1, v, by simpa using hk, (runSteps_succ_of_step h k).trans run, next⟩

end

/-- Settles O4: the four shapes of the agenda, and weak fairness by induction on the agenda. -/
theorem stepTakesTheNextTurn : Obligations.StepTakesTheNextTurn :=
  ⟨fun _ _ => ⟨step_of_empty, step_of_engine, fun _ => step_of_access, step_of_reset⟩,
    fun s => engineIsNext_within s.agenda s rfl⟩

/-- Settles O5: the turn is a write to CMD, whose word is the command's. -/
theorem stepRunsTheDecodedCommand : Obligations.StepRunsTheDecodedCommand := by
  intro s rest w i agenda decoded _
  rw [step_of_access agenda, hostAccess_write_cmd, eq_encode_of_decode decoded, writeCmd_encode]

/-- From the invariant a step has a next state, unless its turn is an access the interface does not define. -/
theorem step_next {s : State} (inv : Inv s) (defined : ∀ a rest, s.agenda = .access a :: rest → a.WellFormed) :
    ∃ t, step s = .next t := by
  cases agenda : s.agenda with
  | nil => rw [step_of_empty agenda]; exact engineTurn_next inv.running
  | cons turn rest =>
    cases turn with
    | engine => rw [step_of_engine agenda]; exact engineTurn_next inv.running
    | reset => exact ⟨_, step_of_reset agenda⟩
    | access a => rw [step_of_access agenda]; exact hostAccess_next _ (defined a rest agenda)

/-- Settles O36: an undefined access is refused under one of three names, and any other turn has a next state. -/
theorem noFaultFromTheInvariant : Obligations.NoFaultFromTheInvariant := by
  intro s inv
  by_cases undefined : ∃ a rest, s.agenda = .access a :: rest ∧ ¬ a.WellFormed
  · refine ⟨fun f fault => ?_, fun _ _ => undefined⟩
    obtain ⟨a, rest, agenda, wrong⟩ := undefined
    rw [step_of_access agenda] at fault
    have refusal := (undefinedAccessesAreRefused a { s with agenda := rest }).2 wrong
    rcases refusal with ⟨refused, -⟩ | ⟨refused, -⟩ | ⟨refused, -⟩ <;> cases refused.symm.trans fault
  · obtain ⟨t, next⟩ := step_next inv fun a rest agenda => by_contra fun wrong => undefined ⟨a, rest, agenda, wrong⟩
    rw [next]
    exact ⟨fun _ => nofun, fun _ => nofun⟩

end Sys2Proof.Machine

/-! PROOF. What a run computes (40_engine.md R136): between the command word and the end of its agenda, whatever the
interleaving, the outputs emitted so far followed by the result of the fold from here are the result of the command. -/
namespace Sys2Proof.Machine

/-! ### How many outputs a command can have emitted

OUT_COUNT never reaches its end: RLEDEC has emitted OUTN elements and N in all, and every other command at most seven for
an element and three at the end. -/

/-- A bound for the outputs of a command whose record is d after n elements. -/
def outputLimit (d : Datapath) (n : Nat) : Nat :=
  match d with
  | .rd r => r.outn
  | _ => 7 * n

theorem vcode_length_le (w : Nat) (v : Int) : (vcode w v).length ≤ payloadBytes w + 1 := by
  unfold vcode
  split_ifs <;> simp

@[simp] theorem naturals_length (ns : List Nat) : (naturals ns).length = ns.length := by simp [naturals]

theorem decoded_length_le (v : Option Int) : (decoded v).length ≤ 1 := by cases v <;> simp [decoded]

section
variable {c : Config} {i : Instr} {lenS : Word} {n : Nat} {d d' : Datapath} {e : Int} {outs : List Int}

theorem encodeState_length {r : REnc} {v : Nat} (h : encodeState r v n = .ok (d', outs)) :
    outs.length ≤ 3 ∧ ∃ r', d' = .re r' := by
  unfold encodeState at h
  split at h
  next =>
    split_ifs at h
    · cases h; exact ⟨by simp, _, rfl⟩
    all_goals
      obtain ⟨triple, emit, h⟩ := check_eq_ok h
      cases h
      obtain ⟨-, -, rfl⟩ := emitTriple_ok emit
      exact ⟨by simp, _, rfl⟩
  next => split_ifs at h <;> cases h <;> exact ⟨by simp, _, rfl⟩

theorem packElement_length {w : Nat} (width : w ≤ 32) (h : packElement w e = .ok (d', outs)) : outs.length ≤ 5 := by
  obtain ⟨v, -, h⟩ := check_eq_ok h
  cases h
  have bound := vcode_length_le w v
  simp only [payloadBytes] at bound
  rw [naturals_length]
  omega

theorem unpackByte_length {w : Nat} {r : VDec} (h : unpackByte w r e = .ok (d', outs)) :
    outs.length ≤ 1 ∧ ∃ r', d' = .vd r' := by
  obtain ⟨b, -, h⟩ := check_eq_ok h
  cases h
  exact ⟨decoded_length_le _, _, rfl⟩

/-- The bound keeps up with what a consume function emits. -/
theorem consumeOf_outputLimit (ok : RecordOk i lenS n d) (h : consumeOf c i d e n = .ok (d', outs)) :
    outputLimit d n + outs.length ≤ outputLimit d' (n + 1) := by
  cases i
  case clr => exact ok.elim
  case vpack16 | vpack32 =>
    cases ok
    have short := packElement_length (by decide) h
    cases packElement_ok h
    simp only [outputLimit]
    omega
  case vunpack16 | vunpack32 =>
    obtain ⟨r, rfl, -⟩ := ok
    obtain ⟨short, r', rfl⟩ := unpackByte_length h
    simp only [outputLimit]
    omega
  case dpack =>
    obtain ⟨prev, rfl, -⟩ := ok
    obtain ⟨v, -, h⟩ := check_eq_ok h
    obtain ⟨diff, -, h⟩ := check_eq_ok h
    cases h
    have short := vcode_length_le 16 diff
    simp only [outputLimit, naturals_length, payloadBytes] at *
    omega
  case dunpack =>
    obtain ⟨r, sum, rfl, -⟩ := ok
    obtain ⟨b, -, h⟩ := check_eq_ok h
    split at h
    next => cases h; simp only [outputLimit, List.length_nil]; omega
    next =>
      obtain ⟨v, -, h⟩ := check_eq_ok h
      cases h
      simp only [outputLimit, List.length_singleton]
      omega
  case rleenc =>
    obtain ⟨r, rfl, -⟩ := ok
    obtain ⟨v, -, h⟩ := check_eq_ok h
    obtain ⟨short, r', rfl⟩ := encodeState_length h
    simp only [outputLimit]
    omega
  case rledec =>
    obtain ⟨r, rfl, -⟩ := ok
    obtain ⟨v, -, h⟩ := check_eq_ok h
    unfold decodeTriple at h
    split_ifs at h <;> cases h
    · exact le_rfl
    · exact le_rfl
    · simp only [outputLimit, naturals_length, expand_length]
      omega
  case qsplit =>
    obtain ⟨fcnt, f, rfl, -⟩ := ok
    simp only [consumeOf, qsplitConsume, splitTag, splitRecord] at h
    split at h
    case h_1 =>
      split_ifs at h
      all_goals
        cases h
        simp only [outputLimit, List.length_nil]
        omega
    case h_2 | h_4 | h_6 =>
      obtain ⟨v, -, h⟩ := check_eq_ok h
      cases h
      simp only [outputLimit, List.length_nil]
      omega
    all_goals
      cases h
      simp only [outputLimit, List.length_cons, List.length_nil]
      omega
  case qjoin =>
    obtain ⟨fcnt, f, rfl, -⟩ := ok
    simp only [consumeOf, qjoinConsume, joinRecord] at h
    split at h
    all_goals
      obtain ⟨v, -, h⟩ := check_eq_ok h
      cases h
      simp only [outputLimit, List.length_cons, List.length_nil]
      omega

/-- Every command but RLEDEC emits at most one triple at the end of its input. -/
theorem finishOf_length (other : i ≠ .rledec) (h : finishOf i d n = .ok outs) : outs.length ≤ 3 := by
  cases i
  case rledec => exact absurd rfl other
  case clr => cases h
  case vpack16 | vpack32 =>
    simp only [finishOf, vpack16Finish, vpack32Finish] at h
    split at h <;> cases h
    exact Nat.zero_le _
  case vunpack16 | vunpack32 | dunpack =>
    simp only [finishOf, vunpack16Finish, vunpack32Finish, dunpackFinish] at h
    split at h
    · obtain ⟨-, rfl⟩ := atCodeBoundary_ok h
      exact Nat.zero_le _
    · cases h
  case rleenc =>
    simp only [finishOf, rleencFinish] at h
    split at h
    · split at h
      · obtain ⟨triple, emit, h⟩ := check_eq_ok h
        cases h
        obtain ⟨-, -, rfl⟩ := emitTriple_ok emit
        exact le_rfl
      · cases h; exact Nat.zero_le _
    · cases h
  case dpack | qsplit | qjoin =>
    simp only [finishOf, dpackFinish, qsplitFinish, qjoinFinish] at h
    split at h
    · split_ifs at h
      cases h
      exact Nat.zero_le _
    · cases h

theorem outputLimit_of_ne_rledec (ok : RecordOk i lenS n d) (other : i ≠ .rledec) : outputLimit d n = 7 * n := by
  cases i
  case rledec => exact absurd rfl other
  case clr => exact ok.elim
  case vpack16 | vpack32 => cases ok; rfl
  case vunpack16 | vunpack32 | dpack | rleenc => obtain ⟨_, rfl, -⟩ := ok; rfl
  case dunpack | qsplit | qjoin => obtain ⟨_, _, rfl, -⟩ := ok; rfl

/-- Before the end of the input the outputs stay below the end of OUT_COUNT. -/
theorem outputLimit_lt (ok : RecordOk i lenS n d) (short : n < 2 ^ 60) : outputLimit d n < 2 ^ 64 := by
  by_cases rledec : i = .rledec
  · subst rledec
    obtain ⟨r, rfl, -, -, -, -, outn_le, total⟩ := ok
    have := lenS.isLt
    simp only [outputLimit]
    omega
  · rw [outputLimit_of_ne_rledec ok rledec]
    omega

/-- At the end of the input they still do. -/
theorem outputLimit_finish_lt (ok : RecordOk i lenS n d) (short : n < 2 ^ 60) (h : finishOf i d n = .ok outs) :
    outputLimit d n + outs.length < 2 ^ 64 := by
  by_cases rledec : i = .rledec
  · subst rledec
    obtain ⟨r, rfl, -, -, -, -, outn_le, total⟩ := ok
    simp only [finishOf, rledecFinish] at h
    split_ifs at h
    cases h
    have := lenS.isLt
    simp only [outputLimit, naturals_length, List.length_replicate]
    omega
  · have few := finishOf_length rledec h
    rw [outputLimit_of_ne_rledec ok rledec]
    omega

end

/-! ### The outputs emitted so far -/

theorem poppedFrom_append_pop (reads : List Response) (w : Word) :
    poppedFrom (reads ++ [⟨0x28, w⟩]) = poppedFrom reads ++ [w] := by
  simp [poppedFrom]

theorem poppedFrom_append_other {off : Nat} (reads : List Response) (w : Word) (other : off ≠ 0x28) :
    poppedFrom (reads ++ [⟨off, w⟩]) = poppedFrom reads := by
  simp [poppedFrom, other]

/-- The outputs emitted so far are, in order, those the host has popped, those in OUTFIFO and those in PENDING; the first
two are counted (10_state.md R42, R44). -/
structure Emitted (s : State) (outs : List Int) : Prop where
  words : poppedFrom s.reads ++ s.outFifo ++ s.pending = outs.map elementWord
  count : s.outCount.toNat + s.pending.length = outs.length
  room : outs.length < 2 ^ 64

section
variable {s : State} {outs : List Int} {w : Word} {rest : List Word}

theorem Emitted.below (emitted : Emitted s outs) (pending : s.pending ≠ []) : s.outCount ≠ countMax := by
  have positive := List.length_pos_of_ne_nil pending
  have count := emitted.count
  have room := emitted.room
  rw [ne_eq, eq_countMax_iff]
  omega

theorem Emitted.transfer (emitted : Emitted s outs) (head : s.pending = w :: rest) :
    Emitted { s with outFifo := s.outFifo ++ [w], pending := rest, outCount := s.outCount + 1 } outs where
  words := by simpa [head] using emitted.words
  count := by
    have count := emitted.count
    rw [head, List.length_cons] at count
    rw [toNat_add_one (emitted.below (by simp [head]))]
    dsimp
    omega
  room := emitted.room

theorem Emitted.append (emitted : Emitted s outs) {new : List Int} (room : (outs ++ new).length < 2 ^ 64) :
    Emitted { s with pending := s.pending ++ new.map elementWord } (outs ++ new) where
  words := by rw [List.map_append, ← emitted.words]; simp
  count := by simp [← emitted.count, Nat.add_assoc]
  room := room

theorem Emitted.pop (emitted : Emitted s outs) (head : s.outFifo = w :: rest) :
    Emitted { s with outFifo := rest, reads := s.reads ++ [⟨0x28, w⟩] } outs where
  words := by simpa [head, poppedFrom_append_pop] using emitted.words
  count := emitted.count
  room := emitted.room

theorem Emitted.after_respond {off : Nat} (emitted : Emitted s outs) (other : off ≠ 0x28) (v : Word) :
    Emitted (respond off v s) outs where
  words := by simpa [poppedFrom_append_other _ _ other] using emitted.words
  count := emitted.count
  room := emitted.room

end

/-! ### The fold from a state on -/

theorem foldFrom_ok {c : Config} {i : Instr} {d d' : Datapath} {n : Nat} {e : Int} {outs : List Int}
    (result : consumeOf c i d e n = .ok (d', outs)) (es : List Int) :
    foldFrom c i d n (e :: es) = (foldFrom c i d' (n + 1) es).after outs := by
  simp only [foldFrom, result]

theorem foldFrom_error {c : Config} {i : Instr} {d : Datapath} {n : Nat} {e : Int} {k : ErrKind}
    (result : consumeOf c i d e n = .error k) (es : List Int) : foldFrom c i d n (e :: es) = .failed k n := by
  simp only [foldFrom, result]

/-- The elements still to be consumed, when the host will write ws before it ends the input. -/
def inputToCome (ws : List Word) (s : State) : List Word := s.inFifo ++ if s.endFlag = true then [] else ws

theorem inputToCome_cons {ws : List Word} {s : State} {w : Word} {rest : List Word} (head : s.inFifo = w :: rest) :
    inputToCome ws s = w :: inputToCome ws { s with inFifo := rest } := by
  simp [inputToCome, head]

/-- What the command i with the record d still computes. -/
def restOfFold (i : Instr) (d : Datapath) (ws : List Word) (s : State) : CommandResult :=
  if s.fin = true then .done []
  else foldFrom s.cfg i d s.inCount.toNat ((inputToCome ws s).map elementValue)

theorem restOfFold_unfinished {i : Instr} {d : Datapath} {ws : List Word} {s : State} (unfinished : s.fin = false) :
    restOfFold i d ws s = foldFrom s.cfg i d s.inCount.toNat ((inputToCome ws s).map elementValue) := by
  rw [restOfFold, if_neg (by simp [unfinished])]

theorem restOfFold_finished {i : Instr} {d : Datapath} {ws : List Word} {s : State} (finished : s.fin = true) :
    restOfFold i d ws s = .done [] := if_pos finished

/-- The command i runs, with the result R for all its input; of that input ws is still to be written, d is the record and
outs are the outputs emitted so far. -/
structure Computing (i : Instr) (R : CommandResult) (ws : List Word) (s : State) (d : Datapath) (outs : List Int) :
    Prop where
  run : s.phase = .run
  op : decodeOp s.opreg = some i
  dp : s.dp = some d
  record : RecordOk i s.lenS s.inCount.toNat d
  short : s.inCount.toNat + (inputToCome ws s).length < 2 ^ 60
  emitted : Emitted s outs
  limit : s.fin = false → outs.length ≤ outputLimit d s.inCount.toNat
  result : (restOfFold i d ws s).after outs = R

/-- A state that a run inside the command i, with the result R, can have reached. -/
inductive Tracked (i : Instr) (R : CommandResult) (ws : List Word) (s : State) : Prop
  | running (d : Datapath) (outs : List Int) (computing : Computing i R ws s d outs)
  | done (outs : List Int) (phase : s.phase = .done) (drained : s.pending = []) (emitted : Emitted s outs)
      (result : R = .done outs)
  | failed (k : ErrKind) (phase : s.phase = .err) (errcode : s.errcode = some k)
      (result : R = .failed k s.errIndex.toNat)
  | misused (phase : s.phase = .err) (errcode : s.errcode = some .protocolError)

section
variable {i : Instr} {R : CommandResult} {ws : List Word} {s t : State} {d : Datapath} {outs : List Int}

/-! ### The engine inside a command -/

theorem Computing.inCount_lt (computing : Computing i R ws s d outs) : s.inCount.toNat < 2 ^ 60 :=
  lt_of_le_of_lt (Nat.le_add_right _ _) computing.short

theorem Computing.transfer (computing : Computing i R ws s d outs) (enabled : TransferEnabled s)
    (h : engineTurn s = .next t) : Tracked i R ws t := by
  obtain ⟨-, pending, -⟩ := id enabled
  obtain ⟨w, rest, head⟩ := List.exists_cons_of_ne_nil pending
  rw [engineTurn_of_transfer enabled, transferStep_cons head, if_neg (computing.emitted.below pending)] at h
  cases h
  exact .running d outs { computing with emitted := computing.emitted.transfer head }

theorem Computing.consume (computing : Computing i R ws s d outs) (enabled : ConsumeEnabled s)
    (h : engineTurn s = .next t) : Tracked i R ws t := by
  obtain ⟨-, -, unfinished, input⟩ := id enabled
  obtain ⟨w, rest, head⟩ := List.exists_cons_of_ne_nil input
  have below : s.inCount ≠ countMax := by
    have := computing.inCount_lt
    rw [ne_eq, eq_countMax_iff]
    omega
  have input_cons := inputToCome_cons (ws := ws) head
  rw [engineTurn_of_consume enabled] at h
  have answer := consumeRunning_eq computing.op computing.dp (elementValue w)
  cases reply : consumeOf s.cfg i d (elementValue w) s.inCount.toNat with
  | mismatch => exact absurd reply (consumeOf_ne_mismatch computing.record)
  | error k =>
    rw [consumeStep_error head below (answer.trans reply)] at h
    cases h
    have rest_fails := restOfFold_unfinished (i := i) (d := d) (ws := ws) unfinished
    rw [input_cons, List.map_cons, foldFrom_error reply] at rest_fails
    exact .failed k rfl rfl (by rw [← computing.result, rest_fails]; rfl)
  | ok answered =>
    obtain ⟨d', new⟩ := answered
    rw [consumeStep_ok head below (answer.trans reply)] at h
    cases h
    have record := consumeOf_recordOk computing.record (elementValue_fits w) reply
    have short := computing.short
    have limit := (Nat.add_le_add_right (computing.limit unfinished) new.length).trans
      (consumeOf_outputLimit computing.record reply)
    have fold := restOfFold_unfinished (i := i) (d := d) (ws := ws) unfinished
    rw [input_cons, List.length_cons, Nat.add_comm _ 1, ← Nat.add_assoc] at short
    rw [input_cons, List.map_cons, foldFrom_ok reply] at fold
    rw [← List.length_append] at limit
    rw [← toNat_add_one below] at record short limit fold
    have room : (outs ++ new).length < 2 ^ 64 :=
      lt_of_le_of_lt limit (outputLimit_lt record (lt_of_le_of_lt (Nat.le_add_right _ _) short))
    have emitted := computing.emitted.append room
    exact .running d' (outs ++ new)
      { computing with
        dp := rfl
        record := record
        short := short
        emitted := { emitted with }
        limit := fun _ => limit
        result := by
          rw [← computing.result, fold, after_after]
          exact congrArg _ (restOfFold_unfinished unfinished) }

theorem Computing.finish (computing : Computing i R ws s d outs) (enabled : FinishEnabled s)
    (h : engineTurn s = .next t) : Tracked i R ws t := by
  obtain ⟨-, -, unfinished, empty, ended⟩ := id enabled
  have no_input : inputToCome ws s = [] := by simp [inputToCome, empty, ended]
  have fold := restOfFold_unfinished (i := i) (d := d) (ws := ws) unfinished
  rw [no_input, List.map_nil, foldFrom] at fold
  rw [engineTurn_of_finish enabled] at h
  have answer := finishRunning_eq computing.op computing.dp
  cases reply : finishOf i d s.inCount.toNat with
  | mismatch => exact absurd reply (finishOf_ne_mismatch computing.record)
  | error k =>
    rw [finishStep_error (answer.trans reply)] at h
    cases h
    rw [reply] at fold
    exact .failed k rfl rfl (by rw [← computing.result, fold]; rfl)
  | ok new =>
    rw [finishStep_ok (answer.trans reply)] at h
    cases h
    rw [reply] at fold
    have room : (outs ++ new).length < 2 ^ 64 := by
      have limit := computing.limit unfinished
      have total := outputLimit_finish_lt computing.record computing.inCount_lt reply
      rw [List.length_append]
      omega
    have emitted := computing.emitted.append room
    exact .running d (outs ++ new)
      { computing with
        emitted := { emitted with }
        limit := nofun
        result := by rw [← computing.result, fold, restOfFold_finished rfl]; simp }

theorem Computing.complete (computing : Computing i R ws s d outs) (enabled : CompleteEnabled s)
    (h : engineTurn s = .next t) : Tracked i R ws t := by
  obtain ⟨-, finished, drained⟩ := id enabled
  rw [engineTurn_of_complete enabled] at h
  cases h
  refine .done outs rfl drained { computing.emitted with } ?_
  rw [← computing.result, restOfFold_finished finished, after_done, List.append_nil]

theorem Computing.after_engineTurn (computing : Computing i R ws s d outs) (h : engineTurn s = .next t) :
    Tracked i R ws t := by
  rcases engine_cases s with enabled | enabled | enabled | enabled | waits
  · exact computing.transfer enabled h
  · exact computing.consume enabled h
  · exact computing.finish enabled h
  · exact computing.complete enabled h
  · cases (engineTurn_of_waits waits).symm.trans h
    exact .running d outs computing

/-! ### The host inside a command -/

/-- The next states of a host access that is no write to CMD. -/
inductive InsideMove (a : Access) (s : State) : State → Prop
  | len (write : a.dir = .write) (offset : a.offset = 0x10) : InsideMove a s (writeLen a.data s)
  | inData (write : a.dir = .write) (offset : a.offset = 0x18) : InsideMove a s (writeInData a.data s)
  | inEnd (write : a.dir = .write) (offset : a.offset = 0x20) : InsideMove a s (writeInEnd s)
  | ignored (offset : a.offset ∉ [0x00, 0x10, 0x18, 0x20]) : InsideMove a s s
  | outData (read : a.dir = .read) : InsideMove a s (readOutData s)
  | register (read : a.dir = .read) (off : Nat) (v : Word) (other : off ≠ 0x28) : InsideMove a s (respond off v s)

theorem hostAccess_insideMove {a : Access} (inside : ¬ (a.dir = .write ∧ a.offset = 0x00))
    (h : hostAccess a s = .next t) : InsideMove a s t := by
  unfold hostAccess at h
  split_ifs at h
  split at h
  next write =>
    unfold busWrite at h
    split at h
    case h_1 offset => exact absurd ⟨write, offset⟩ inside
    case h_2 offset => cases h; exact .len write offset
    case h_3 offset => cases h; exact .inData write offset
    case h_4 offset => cases h; exact .inEnd write offset
    case h_5 =>
      cases h
      exact .ignored (by simp only [List.mem_cons, List.not_mem_nil, or_false]; tauto)
  next read =>
    unfold busRead at h
    split at h
    next => cases h; exact .outData read
    next other => cases h; exact .register read _ _ other

/-- An access to an input port moves input from what is to be written into INFIFO or END, and the rest is as it was. -/
theorem Computing.of_same_input (computing : Computing i R ws s d outs) {ws' inFifo : List Word} {endFlag : Bool}
    (input : inputToCome ws s = inputToCome ws' { s with inFifo := inFifo, endFlag := endFlag }) :
    Computing i R ws' { s with inFifo := inFifo, endFlag := endFlag } d outs := by
  have short := computing.short
  have result := computing.result
  rw [input] at short
  rw [restOfFold, input] at result
  exact { computing with short := short, emitted := { computing.emitted with }, result := result }

/-- Only the two input ports tell in which access the input grows or ends. -/
theorem pushedBy_of_other {a : Access} {rest : List Turn} (notData : ¬ (a.dir = .write ∧ a.offset = 0x18))
    (notEnd : ¬ (a.dir = .write ∧ a.offset = 0x20)) : pushedBy (.access a :: rest) = pushedBy rest := by
  rw [pushedBy, if_neg notEnd, if_neg notData]

theorem Emitted.after_pop (emitted : Emitted s outs) (available : s.outFifo ≠ []) :
    ∃ rest reads, readOutData s = { s with outFifo := rest, reads := reads } ∧
      Emitted { s with outFifo := rest, reads := reads } outs := by
  obtain ⟨w, rest, head⟩ := List.exists_cons_of_ne_nil available
  exact ⟨rest, _, readOutData_cons head, emitted.pop head⟩

theorem Computing.after_access {a : Access} {rest : List Turn}
    (computing : Computing i R (pushedBy (.access a :: rest)) s d outs) (move : InsideMove a s t) :
    Tracked i R (pushedBy rest) t := by
  have run := computing.run
  have active : s.phase ≠ .err := by simp [run]
  cases move with
  | len write offset =>
    rw [pushedBy_of_other (by simp [offset]) (by simp [offset])] at computing
    exact .running d outs { computing with emitted := { computing.emitted with } }
  | inData write offset =>
    rw [pushedBy, if_neg (by simp [offset]), if_pos ⟨write, offset⟩] at computing
    by_cases rejected : s.endFlag = true ∨ s.inFifo.length = s.cfg.inDepth
    · rw [writeInData_rejected _ active (.inr rejected)]
      exact .misused rfl rfl
    · obtain ⟨notEnded, room⟩ := not_or.mp rejected
      rw [writeInData_accepted _ run (by simpa using notEnded) room]
      have input : inputToCome (a.data :: pushedBy rest) s =
          inputToCome (pushedBy rest) { s with inFifo := s.inFifo ++ [a.data] } := by
        simp [inputToCome, notEnded]
      exact .running d outs (computing.of_same_input input)
  | inEnd write offset =>
    rw [pushedBy, if_pos ⟨write, offset⟩] at computing
    by_cases ended : s.endFlag = true
    · rw [writeInEnd_rejected active (.inr ended)]
      exact .misused rfl rfl
    · rw [writeInEnd_accepted run (by simpa using ended)]
      have input : inputToCome [] s = inputToCome (pushedBy rest) { s with endFlag := true } := by simp [inputToCome]
      exact .running d outs (computing.of_same_input input)
  | ignored offset =>
    have notData : ¬ (a.dir = .write ∧ a.offset = 0x18) := by rintro ⟨-, data⟩; simp [data] at offset
    have notEnd : ¬ (a.dir = .write ∧ a.offset = 0x20) := by rintro ⟨-, ends⟩; simp [ends] at offset
    rw [pushedBy_of_other notData notEnd] at computing
    exact .running d outs computing
  | outData read =>
    rw [pushedBy_of_other (by simp [read]) (by simp [read])] at computing
    by_cases empty : s.outFifo = []
    · rw [readOutData_rejected empty (.inl run)]
      exact .misused rfl rfl
    · obtain ⟨outFifo, reads, pops, emitted⟩ := computing.emitted.after_pop empty
      rw [pops]
      exact .running d outs { computing with emitted := emitted }
  | register read off v other =>
    rw [pushedBy_of_other (by simp [read]) (by simp [read])] at computing
    exact .running d outs { computing with emitted := computing.emitted.after_respond other v }

/-- At DONE the host can read the outputs; a write to an input port is an error. -/
theorem Emitted.after_access {a : Access} (emitted : Emitted s outs) (done : s.phase = .done) (drained : s.pending = [])
    (move : InsideMove a s t) : Tracked i (.done outs) ws t := by
  have active : s.phase ≠ .err := by simp [done]
  have notRun : s.phase ≠ .run := by simp [done]
  cases move with
  | len => exact .done outs done drained { emitted with } rfl
  | inData => rw [writeInData_rejected _ active (.inl notRun)]; exact .misused rfl rfl
  | inEnd => rw [writeInEnd_rejected active (.inl notRun)]; exact .misused rfl rfl
  | ignored => exact .done outs done drained emitted rfl
  | outData =>
    by_cases empty : s.outFifo = []
    · rw [readOutData_rejected empty (.inr done)]
      exact .misused rfl rfl
    · obtain ⟨outFifo, reads, pops, emitted⟩ := emitted.after_pop empty
      rw [pops]
      exact .done outs done drained emitted rfl
  | register _ off v other => exact .done outs done drained (emitted.after_respond other v) rfl

/-! ### ERR inside a command -/

variable {turn : Turn} {rest : List Turn}

theorem not_clearIsNext_of_insideCommand (agenda : s.agenda = turn :: rest) (inside : InsideCommand turn) :
    ¬ ClearIsNext s := by
  rintro ⟨rest', reset | ⟨a, access, write, offset, -⟩⟩
  · cases agenda.symm.trans reset
    exact inside
  · cases agenda.symm.trans access
    exact inside ⟨write, offset⟩

/-- 60_exceptions.md R245: only a clearing turn leaves ERR or changes its record. -/
theorem step_keeps_err (err : s.phase = .err) (notClear : ¬ ClearIsNext s) (h : step s = .next t) :
    t.phase = .err ∧ t.errcode = s.errcode ∧ t.errIndex = s.errIndex := by
  cases step_effect h with
  | progress effect =>
    have phase : t.phase = s.phase := effect.phase.resolve_right (by simp [err])
    exact ⟨phase.trans err, effect.errcode, effect.errIndex⟩
  | error effect => exact absurd err effect.active
  | start effect => exact absurd effect.startable (by simp [err])
  | clear effect => exact absurd effect.next notClear

/-! ### A whole run -/

theorem Tracked.after_step (tracked : Tracked i R (pushedBy (turn :: rest)) s) (agenda : s.agenda = turn :: rest)
    (inside : InsideCommand turn) (h : step s = .next t) : Tracked i R (pushedBy rest) t := by
  have err_kept (err : s.phase = .err) := step_keeps_err err (not_clearIsNext_of_insideCommand agenda inside) h
  cases tracked with
  | failed k err errcode result =>
    obtain ⟨phase, code, index⟩ := err_kept err
    exact .failed k phase (code.trans errcode) (index ▸ result)
  | misused err errcode =>
    obtain ⟨phase, code, -⟩ := err_kept err
    exact .misused phase (code.trans errcode)
  | running d outs computing =>
    have taken : Computing i R (pushedBy (turn :: rest)) { s with agenda := rest } d outs :=
      { computing with emitted := { computing.emitted with } }
    cases turn with
    | engine => exact taken.after_engineTurn ((step_of_engine agenda).symm.trans h)
    | reset => exact inside.elim
    | access a => exact taken.after_access (hostAccess_insideMove inside ((step_of_access agenda).symm.trans h))
  | done outs done drained emitted result =>
    subst result
    have taken : Emitted { s with agenda := rest } outs := { emitted with }
    cases turn with
    | engine =>
      have waits : EngineWaits { s with agenda := rest } := engineWaits_of_phase (by simp [done])
      cases (engineTurn_of_waits waits).symm.trans ((step_of_engine agenda).symm.trans h)
      exact .done outs done drained taken rfl
    | reset => exact inside.elim
    | access a =>
      exact taken.after_access done drained (hostAccess_insideMove inside ((step_of_access agenda).symm.trans h))

theorem Tracked.after_run (sched : List Turn) (s : State) (agenda : s.agenda = sched)
    (inside : ∀ u ∈ sched, InsideCommand u) (tracked : Tracked i R (pushedBy sched) s)
    (h : runSteps sched.length s = .next t) : Tracked i R [] t := by
  induction sched generalizing s with
  | nil => cases (runSteps_zero s).symm.trans h; exact tracked
  | cons turn rest ih =>
    obtain ⟨u, first, onward⟩ := exists_step_of_runSteps h
    exact ih u (step_agenda agenda first) (fun v hv => inside v (List.mem_cons_of_mem _ hv))
      (tracked.after_step agenda (inside turn List.mem_cons_self) first) onward

theorem tracked_of_start {sched : List Turn} (command : i ≠ .clr) (startable : Startable s) (unread : s.reads = [])
    (agenda : s.agenda = .access (cmdAccess i) :: sched) (short : (pushedBy sched).length < 2 ^ 60)
    (h : step s = .next t) :
    Tracked i (commandResult s.cfg i s.len ((pushedBy sched).map elementValue)) (pushedBy sched) t := by
  obtain ⟨d, init⟩ := initOf_eq_some command s.len
  have starts := (hostAccess_write_cmd (encode i) { s with agenda := sched }).trans
    ((writeCmd_encode i _).trans (exec_of_startable (s := { s with agenda := sched }) startable init))
  cases starts.symm.trans ((step_of_access agenda).symm.trans h)
  have result : commandResult s.cfg i s.len ((pushedBy sched).map elementValue) =
      foldFrom s.cfg i d 0 ((pushedBy sched).map elementValue) := by
    simp only [commandResult, init]
  refine .running d [] ?_
  constructor
  case run => rfl
  case op => exact decodeOp_opcode i
  case dp => rfl
  case record => exact initOf_recordOk init
  case short => simpa [inputToCome] using short
  case emitted => exact ⟨by simp [unread, poppedFrom], rfl, by simp⟩
  case limit => exact fun _ => Nat.zero_le _
  case result => rw [after_nil, result]; rfl

end

/-- Settles O37: the command starts tracked, and every turn inside it keeps the state tracked. -/
theorem resultIsTheFoldForEveryInterleaving : Obligations.ResultIsTheFoldForEveryInterleaving := by
  intro i s t sched command startable unread agenda inside short h noMisuse
  rw [Nat.add_comm] at h
  obtain ⟨u, first, onward⟩ := exists_step_of_runSteps h
  have started := tracked_of_start command startable unread agenda short first
  cases started.after_run sched u (step_agenda agenda first) inside onward with
  | running d outs computing => simp [computing.run]
  | done outs phase drained emitted result =>
    refine ⟨fun _ => ⟨outs, result, ?_, ?_⟩, fun err => by simp [phase] at err⟩
    · simpa [drained] using emitted.count
    · simpa [drained] using emitted.words
  | failed k phase errcode result =>
    exact ⟨fun done => by simp [phase] at done, fun _ => ⟨k, _, result, errcode, rfl⟩⟩
  | misused phase errcode => exact absurd errcode noMisuse

end Sys2Proof.Machine

/-! PROOF. The varint byte packer (41_varint.md R153 to R158): the fold of a pack or unpack command over its input, for both
widths at once; a code decodes to its value, so unpacking undoes packing. -/
namespace Sys2Proof.Machine

section
variable {c : Config} {w : Nat} {i : Instr} {r : VDec} {e : Int}

/-! ### The functions of the four commands

A pack command and an unpack command differ between the widths in the width alone. -/

theorem packFunctions (row : (w, i) ∈ [(16, Instr.vpack16), (32, .vpack32)]) :
    (∀ lenS, initOf i lenS = some .vp) ∧ (∀ e n, consumeOf c i .vp e n = packElement w e) ∧
      ∀ n, finishOf i .vp n = .ok [] := by
  simp only [List.mem_cons, Prod.mk.injEq, List.not_mem_nil, or_false] at row
  obtain ⟨rfl, rfl⟩ | ⟨rfl, rfl⟩ := row <;> exact ⟨fun _ => rfl, fun _ _ => rfl, fun _ => rfl⟩

theorem unpackFunctions (row : (w, i) ∈ [(16, Instr.vunpack16), (32, .vunpack32)]) :
    (∀ lenS, initOf i lenS = some (.vd vdecInit)) ∧ (∀ r e n, consumeOf c i (.vd r) e n = unpackByte w r e) ∧
      ∀ r n, finishOf i (.vd r) n = atCodeBoundary r := by
  simp only [List.mem_cons, Prod.mk.injEq, List.not_mem_nil, or_false] at row
  obtain ⟨rfl, rfl⟩ | ⟨rfl, rfl⟩ := row <;> exact ⟨fun _ => rfl, fun _ _ _ => rfl, fun _ _ => rfl⟩

theorem packElement_of_fits (fits : FitsS w e) : packElement w e = .ok (.vp, naturals (vcode w e)) := by
  rw [packElement, checkSigned_of_fits fits]; rfl

theorem packElement_of_not_fits (wide : ¬ FitsS w e) : packElement w e = .error .rangeOverflow := by
  rw [packElement, checkSigned, if_neg wide]; rfl

theorem unpackByte_of_byte (range : -128 ≤ e ∧ e ≤ 255) :
    unpackByte w r e = .ok (.vd (vdecStep w r (byte e)).1, decoded (vdecStep w r (byte e)).2) := by
  rw [unpackByte, checkByte, if_pos range]; rfl

theorem unpackByte_of_not_byte (outside : ¬ (-128 ≤ e ∧ e ≤ 255)) : unpackByte w r e = .error .rangeOverflow := by
  rw [unpackByte, checkByte, if_neg outside]; rfl

/-! ### The fold over the input -/

theorem isSignedElement_iff : isSignedElement w e = true ↔ FitsS w e := decide_eq_true_iff

theorem isByteElement_iff : isByteElement e = true ↔ -128 ≤ e ∧ e ≤ 255 := decide_eq_true_iff

theorem varintStream_cons (w : Nat) (v : Int) (vs : List Int) :
    varintStream w (v :: vs) = vcode w v ++ varintStream w vs := List.flatMap_cons

theorem length_takeWhile_cons {p : Int → Bool} (e : Int) (es : List Int) :
    ((e :: es).takeWhile p).length = if p e = true then (es.takeWhile p).length + 1 else 0 := by
  rw [List.takeWhile_cons]; split_ifs <;> rfl

/-- VPACK from index n on; its record never changes. -/
theorem foldFrom_pack (row : (w, i) ∈ [(16, Instr.vpack16), (32, .vpack32)]) (n : Nat) (es : List Int) :
    foldFrom c i .vp n es =
      if (es.takeWhile (isSignedElement w)).length = es.length then .done (naturals (varintStream w es))
      else .failed .rangeOverflow (n + (es.takeWhile (isSignedElement w)).length) := by
  obtain ⟨-, consume, finish⟩ := packFunctions (c := c) row
  induction es generalizing n with
  | nil => simp only [foldFrom, finish]; rfl
  | cons e es ih =>
    by_cases fits : FitsS w e
    · rw [foldFrom_ok ((consume e n).trans (packElement_of_fits fits)), ih, length_takeWhile_cons,
        if_pos (isSignedElement_iff.mpr fits), varintStream_cons, naturals_append]
      simp only [List.length_cons, Nat.add_right_cancel_iff]
      split_ifs
      · rfl
      · simp only [after_failed, Nat.add_assoc, Nat.add_comm 1]
    · rw [foldFrom_error ((consume e n).trans (packElement_of_not_fits fits)), length_takeWhile_cons,
        if_neg (mt isSignedElement_iff.mp fits)]
      simp

/-- VUNPACK from the registers r at index n on. -/
theorem foldFrom_unpack (row : (w, i) ∈ [(16, Instr.vunpack16), (32, .vunpack32)]) (r : VDec) (n : Nat) (es : List Int) :
    foldFrom c i (.vd r) n es =
      if (es.takeWhile isByteElement).length ≠ es.length then
        .failed .rangeOverflow (n + (es.takeWhile isByteElement).length)
      else if (decodeStream w r (es.map byte)).1.esc = true then .failed .corruptContainer (n + es.length)
      else .done (decodeStream w r (es.map byte)).2 := by
  obtain ⟨-, consume, finish⟩ := unpackFunctions (c := c) row
  induction es generalizing r n with
  | nil => cases esc : r.esc <;> simp [foldFrom, finish, atCodeBoundary, decodeStream, esc]
  | cons e es ih =>
    by_cases range : -128 ≤ e ∧ e ≤ 255
    · rw [foldFrom_ok ((consume r e n).trans (unpackByte_of_byte range)), ih, length_takeWhile_cons,
        if_pos (isByteElement_iff.mpr range)]
      simp only [List.map_cons, decodeStream, List.length_cons, ne_eq, Nat.add_right_cancel_iff]
      split_ifs
      · simp only [after_failed, Nat.add_assoc, Nat.add_comm 1]
      · rfl
      · simp only [after_failed, Nat.add_assoc, Nat.add_comm 1]
    · rw [foldFrom_error ((consume r e n).trans (unpackByte_of_not_byte range)), length_takeWhile_cons,
        if_neg (mt isByteElement_iff.mp range)]
      simp

end

/-- Settles O42: the fold from the first element. -/
theorem vpackResult : Obligations.VpackResult := by
  intro c lenS w i es row
  simp only [commandResult, (packFunctions (c := c) row).1, foldFrom_pack row, Nat.zero_add]

/-- Settles O43: the fold from the first element, outside an escape. -/
theorem vunpackResult : Obligations.VunpackResult := by
  intro c lenS w i es row
  simp only [commandResult, (unpackFunctions (c := c) row).1, foldFrom_unpack row, Nat.zero_add]

section
variable {c : Config} {lenS : Word} {w : Nat} {i : Instr} {v : Int} {vs : List Int} {bs ps : List Nat}

/-! ### Codes as input of an unpack command -/

theorem map_byte_naturals (bytes : ∀ b ∈ bs, b < 256) : (naturals bs).map byte = bs := by
  rw [naturals, List.map_map]
  exact (List.map_congr_left fun b hb => byte_natCast (bytes b hb)).trans (List.map_id bs)

theorem isByteElement_of_mem_naturals (bytes : ∀ b ∈ bs, b < 256) : ∀ e ∈ naturals bs, isByteElement e = true := by
  intro e mem
  obtain ⟨b, hb, rfl⟩ := List.mem_map.mp mem
  have small := bytes b hb
  exact isByteElement_iff.mpr (by simp only [Int.ofNat_eq_natCast]; omega)

/-- R96: bytes given as numbers from 0 to 255 reach the decoder unchanged. -/
theorem commandResult_unpack_naturals (row : (w, i) ∈ [(16, Instr.vunpack16), (32, .vunpack32)])
    (bytes : ∀ b ∈ bs, b < 256) :
    commandResult c i lenS (naturals bs) =
      if (decodeStream w vdecInit bs).1.esc = true then .failed .corruptContainer bs.length
      else .done (decodeStream w vdecInit bs).2 := by
  have accepted := List.takeWhile_eq_self_iff.mpr (isByteElement_of_mem_naturals bytes)
  rw [vunpackResult c lenS w i (naturals bs) row, accepted, if_neg (not_not.mpr rfl), map_byte_naturals bytes,
    naturals_length]

theorem vcode_lt : ∀ b ∈ vcode w v, b < 256 := by
  intro b mem
  by_cases literal : -127 ≤ v ∧ v ≤ 127
  · rw [vcode_literal w literal, List.mem_singleton] at mem
    exact mem ▸ byte_lt v
  · rw [vcode_escape w literal, List.mem_cons, List.mem_map] at mem
    obtain rfl | ⟨k, -, rfl⟩ := mem
    · decide
    · exact byte_lt _

theorem varintStream_lt : ∀ b ∈ varintStream w vs, b < 256 := by
  intro b mem
  obtain ⟨v, -, hb⟩ := List.mem_flatMap.mp mem
  exact vcode_lt b hb

/-! ### A code decodes to its value -/

theorem s8_byte (signed : -128 ≤ v ∧ v ≤ 127) : s8 (byte v) = v := by
  simp only [s8, sext, byte]; split_ifs <;> omega

theorem decodeStream_vcode (width : w = 16 ∨ w = 32) (fits : FitsS w v) :
    decodeStream w vdecInit (vcode w v) = (vdecInit, [v]) := by
  obtain ⟨-, escape16, escape32⟩ := varintCodeForms
  by_cases literal : -127 ≤ v ∧ v ≤ 127
  · rw [vcode_literal w literal, decodeStream_literal w (byte_ne_escByte literal), s8_byte (by omega)]
  · obtain rfl | rfl := width
    · obtain ⟨code, top⟩ := escape16 v fits literal
      rw [code, decodeStream_escape16, s8_byte top]
      simp only [byte, asr, Prod.mk.injEq, List.cons.injEq, and_true, true_and]
      omega
    · obtain ⟨code, top⟩ := escape32 v fits literal
      rw [code, decodeStream_escape32, s8_byte top]
      simp only [byte, asr, Prod.mk.injEq, List.cons.injEq, and_true, true_and]
      omega

/-- R154: every code is decoded from, and ends in, the registers outside an escape. -/
theorem decodeStream_varintStream (width : w = 16 ∨ w = 32) (fits : ∀ v ∈ vs, FitsS w v) :
    decodeStream w vdecInit (varintStream w vs) = (vdecInit, vs) := by
  induction vs with
  | nil => rfl
  | cons v vs ih =>
    obtain ⟨head, tail⟩ := List.forall_mem_cons.mp fits
    rw [varintStream_cons, decodeStream_append, decodeStream_vcode width head, ih tail]
    rfl

theorem vcode_length (w : Nat) (v : Int) :
    (vcode w v).length = if -127 ≤ v ∧ v ≤ 127 then 1 else 1 + w / 8 := by
  split_ifs with literal
  · rw [vcode_literal w literal]; rfl
  · rw [vcode_escape w literal, List.length_cons, List.length_map, List.length_range, payloadBytes, Nat.add_comm]

/-- Inside an escape, fewer payload bytes than are still missing leave the decoder inside it. -/
theorem decodeStream_payload_esc (k acc : Nat) (missing : k + ps.length < payloadBytes w) :
    (decodeStream w ⟨true, k, acc⟩ ps).1.esc = true := by
  induction ps generalizing k acc with
  | nil => rfl
  | cons p ps ih =>
    rw [List.length_cons] at missing
    simp only [decodeStream, vdecStep_payload (show k < payloadBytes w - 1 by omega)]
    exact ih (k + 1) _ (by omega)

end

/-- Settles O44: the whole codes end outside an escape, the cut one inside. -/
theorem truncatedEscapeIsCorrupt : Obligations.TruncatedEscapeIsCorrupt := by
  intro c lenS w i vs ps row fits payload short
  have width : w = 16 ∨ w = 32 := by simp at row; omega
  have bytes : ∀ b ∈ varintStream w vs ++ 0x80 :: ps, b < 256 :=
    List.forall_mem_append.mpr ⟨varintStream_lt, List.forall_mem_cons.mpr ⟨by decide, payload⟩⟩
  have inside : (decodeStream w vdecInit (varintStream w vs ++ 0x80 :: ps)).1.esc = true := by
    rw [decodeStream_append, decodeStream_varintStream width fits]
    simp only [decodeStream, vdecStep_escByte]
    exact decodeStream_payload_esc 0 0 (by simpa [payloadBytes] using short)
  rw [commandResult_unpack_naturals row bytes, if_pos inside]

/-- Settles O45: VPACK's output is the stream of codes, which decodes to the list. -/
theorem varintRoundTrip : Obligations.VarintRoundTrip := by
  intro w pack unpack row
  simp only [List.mem_cons, Prod.mk.injEq, List.not_mem_nil, or_false] at row
  obtain ⟨width, packRow, unpackRow⟩ : (w = 16 ∨ w = 32) ∧ (w, pack) ∈ [(16, Instr.vpack16), (32, .vpack32)] ∧
      (w, unpack) ∈ [(16, Instr.vunpack16), (32, .vunpack32)] := by
    obtain ⟨rfl, rfl, rfl⟩ | ⟨rfl, rfl, rfl⟩ := row <;> decide
  refine ⟨fun vs fits => ?_, fun v _ => vcode_length w v⟩
  have decodes := decodeStream_varintStream width fits
  refine ⟨decodes, fun c lenS => ⟨naturals (varintStream w vs), ?packed, ?unpacked⟩⟩
  case packed =>
    have accepted := List.takeWhile_eq_self_iff.mpr fun v hv => isSignedElement_iff.mpr (fits v hv)
    rw [vpackResult c lenS w pack vs packRow, accepted, if_pos rfl]
  case unpacked =>
    rw [commandResult_unpack_naturals unpackRow varintStream_lt, decodes]
    rfl

end Sys2Proof.Machine

/-! PROOF. The delta channel coder (42_delta.md R170 to R174): one element of each command, DPACK's fold as the stream of coded
differences, and DUNPACK's fold over bytes that decode to them. -/
namespace Sys2Proof.Machine

section
variable {c : Config} {p : DeltaPolicy} {d e v prev sum : Int} {r r' : VDec} {n : Nat} {vs : List Int}

/-! ### The range policy -/

theorem dfit_of_fits (fits : FitsS 16 d) : dfit p d = .ok d := if_pos fits

theorem dfit_wrap16 (wide : ¬ FitsS 16 d) : dfit .wrap16 d = .ok (wrap 16 d) := if_neg wide

theorem dfit_fault (wide : ¬ FitsS 16 d) : dfit .fault d = .error .rangeOverflow := if_neg wide

theorem isCodableDifference_iff : isCodableDifference p d = true ↔ p = .wrap16 ∨ FitsS 16 d := decide_eq_true_iff

theorem codedDifference_of_fits (fits : FitsS 16 d) : codedDifference d = d := if_pos fits

theorem codedDifference_of_not_fits (wide : ¬ FitsS 16 d) : codedDifference d = wrap 16 d := if_neg wide

theorem dfit_of_codable (codable : isCodableDifference p d = true) : dfit p d = .ok (codedDifference d) := by
  by_cases fits : FitsS 16 d
  · rw [dfit_of_fits fits, codedDifference_of_fits fits]
  · obtain rfl := (isCodableDifference_iff.mp codable).resolve_right fits
    rw [dfit_wrap16 fits, codedDifference_of_not_fits fits]

theorem dfit_of_not_codable (uncodable : ¬ isCodableDifference p d = true) : dfit p d = .error .rangeOverflow := by
  obtain ⟨policy, wide⟩ := not_or.mp (mt isCodableDifference_iff.mpr uncodable)
  cases p
  case wrap16 => exact absurd rfl policy
  case fault => exact dfit_fault wide

theorem codedDifference_fits (d : Int) : FitsS 16 (codedDifference d) := by
  by_cases fits : FitsS 16 d
  · rwa [codedDifference_of_fits fits]
  · rw [codedDifference_of_not_fits fits]; exact wrap16_fits d

theorem codedDifference_emod (d : Int) : codedDifference d % 65536 = d % 65536 := by
  by_cases fits : FitsS 16 d
  · rw [codedDifference_of_fits fits]
  · rw [codedDifference_of_not_fits fits, wrap16_emod]

theorem eq_of_fits16_of_emod (hd : FitsS 16 d) (he : FitsS 16 e) (same : d % 65536 = e % 65536) : d = e := by
  simp only [FitsS] at hd he; omega

/-- R174: the coded difference and the sum are both exact modulo 2^16, which an int16 value is determined by. -/
theorem dfit_add_codedDifference (fits : FitsS 16 v) (codable : isCodableDifference p (v - sum) = true) :
    dfit p (sum + codedDifference (v - sum)) = .ok v := by
  have summable : isCodableDifference p (sum + codedDifference (v - sum)) = true :=
    isCodableDifference_iff.mpr <| (isCodableDifference_iff.mp codable).imp_right fun difference_fits => by
      rwa [codedDifference_of_fits difference_fits, add_sub_cancel]
  have difference_emod := codedDifference_emod (v - sum)
  have sum_emod := codedDifference_emod (sum + codedDifference (v - sum))
  rw [dfit_of_codable summable]
  exact congrArg _ (eq_of_fits16_of_emod (codedDifference_fits _) fits (by omega))

/-! ### One element of DPACK -/

theorem dpackConsume_of_codable (fits : FitsS 16 v) (codable : isCodableDifference c.deltaPolicy (v - prev) = true) (n : Nat) :
    consumeOf c .dpack (.dp prev) v n = .ok (.dp v, naturals (vcode 16 (codedDifference (v - prev)))) := by
  simp only [consumeOf, dpackConsume, checkSigned_of_fits fits, check, dfit_of_codable codable]

theorem dpackConsume_of_refused (refused : ¬ (FitsS 16 v ∧ isCodableDifference c.deltaPolicy (v - prev) = true)) (n : Nat) :
    consumeOf c .dpack (.dp prev) v n = .error .rangeOverflow := by
  by_cases fits : FitsS 16 v
  · simp only [consumeOf, dpackConsume, checkSigned_of_fits fits, check,
      dfit_of_not_codable (fun codable => refused ⟨fits, codable⟩)]
  · simp only [consumeOf, dpackConsume, checkSigned, if_neg fits, check]

/-! ### The fold of DPACK -/

/-- The differences of the elements DPACK accepts before the first it refuses, PREV being prev (42_delta.md R172). -/
def acceptedDifferences (p : DeltaPolicy) (prev : Int) (vs : List Int) : List Int :=
  (differences prev (vs.takeWhile (isSignedElement 16))).takeWhile (isCodableDifference p)

/-- The codes of the coded differences of a list, PREV being prev (42_delta.md R171, R172). -/
def deltaStream (prev : Int) (vs : List Int) : List Nat := varintStream 16 ((differences prev vs).map codedDifference)

theorem deltaStream_cons (prev v : Int) (vs : List Int) :
    deltaStream prev (v :: vs) = vcode 16 (codedDifference (v - prev)) ++ deltaStream v vs :=
  varintStream_cons 16 _ _

theorem acceptedDifferences_cons (p : DeltaPolicy) (prev v : Int) (vs : List Int) :
    acceptedDifferences p prev (v :: vs) =
      if FitsS 16 v ∧ isCodableDifference p (v - prev) = true then (v - prev) :: acceptedDifferences p v vs else [] := by
  by_cases fits : FitsS 16 v
  · simp only [acceptedDifferences, List.takeWhile_cons_of_pos (isSignedElement_iff.mpr fits), differences,
      List.takeWhile_cons, and_iff_right fits]
  · rw [acceptedDifferences, List.takeWhile_cons_of_neg (mt isSignedElement_iff.mp fits), if_neg fun h => fits h.1]
    rfl

/-- DPACK accepts its whole input iff every element and every difference is in range. -/
theorem length_acceptedDifferences_eq_iff (p : DeltaPolicy) (prev : Int) (vs : List Int) :
    (acceptedDifferences p prev vs).length = vs.length ↔
      (∀ v ∈ vs, FitsS 16 v) ∧ ∀ d ∈ differences prev vs, isCodableDifference p d = true := by
  induction vs generalizing prev with
  | nil => simp [acceptedDifferences, differences]
  | cons v vs ih =>
    rw [acceptedDifferences_cons, differences, List.forall_mem_cons, List.forall_mem_cons]
    split_ifs with accepted
    · rw [List.length_cons, List.length_cons, Nat.add_right_cancel_iff, ih, and_iff_right accepted.1, and_iff_right accepted.2]
    · exact iff_of_false (by simp) fun h => accepted ⟨h.1.1, h.2.1⟩

/-- DPACK from index n on, where the whole input is not empty. -/
theorem foldFrom_dpack (prev : Int) (n : Nat) (vs : List Int) (nonempty : n ≠ 0 ∨ vs ≠ []) :
    foldFrom c .dpack (.dp prev) n vs =
      if (acceptedDifferences c.deltaPolicy prev vs).length ≠ vs.length then
        .failed .rangeOverflow (n + (acceptedDifferences c.deltaPolicy prev vs).length)
      else .done (naturals (deltaStream prev vs)) := by
  induction vs generalizing prev n with
  | nil =>
    have started : n ≠ 0 := nonempty.resolve_right (not_not.mpr rfl)
    simp only [foldFrom, finishOf, dpackFinish, if_neg started]
    rfl
  | cons v vs ih =>
    rw [acceptedDifferences_cons]
    by_cases accepted : FitsS 16 v ∧ isCodableDifference c.deltaPolicy (v - prev) = true
    · rw [foldFrom_ok (dpackConsume_of_codable accepted.1 accepted.2 n), ih v (n + 1) (.inl n.succ_ne_zero), if_pos accepted,
        deltaStream_cons, naturals_append]
      simp only [List.length_cons, ne_eq, Nat.add_right_cancel_iff]
      split_ifs
      · rfl
      · simp only [after_failed, Nat.add_assoc, Nat.add_comm 1]
    · rw [foldFrom_error (dpackConsume_of_refused accepted n), if_neg accepted]
      simp

theorem commandResult_dpack (c : Config) (lenS : Word) (nonempty : vs ≠ []) :
    commandResult c .dpack lenS vs =
      if (acceptedDifferences c.deltaPolicy 0 vs).length ≠ vs.length then
        .failed .rangeOverflow (acceptedDifferences c.deltaPolicy 0 vs).length
      else .done (naturals (deltaStream 0 vs)) := by
  simp only [commandResult, initOf, foldFrom_dpack 0 0 vs (.inr nonempty), Nat.zero_add]

/-! ### One byte of DUNPACK, and its end of input -/

theorem dunpackConsume_of_not_byte (outside : ¬ (-128 ≤ e ∧ e ≤ 255)) (n : Nat) :
    consumeOf c .dunpack (.du r sum) e n = .error .rangeOverflow := by
  simp only [consumeOf, dunpackConsume, checkByte, if_neg outside, check]

theorem dunpackConsume_of_inside (range : -128 ≤ e ∧ e ≤ 255) (inside : vdecStep 16 r (byte e) = (r', none)) (n : Nat) :
    consumeOf c .dunpack (.du r sum) e n = .ok (.du r' sum, []) := by
  simp only [consumeOf, dunpackConsume, checkByte, if_pos range, check, inside]

theorem dunpackConsume_of_complete (range : -128 ≤ e ∧ e ≤ 255) (complete : vdecStep 16 r (byte e) = (r', some d)) (n : Nat) :
    consumeOf c .dunpack (.du r sum) e n = check (dfit c.deltaPolicy (sum + d)) fun v => .ok (.du r' v, [v]) := by
  simp only [consumeOf, dunpackConsume, checkByte, if_pos range, check, complete]

theorem dunpackConsume_of_sum (range : -128 ≤ e ∧ e ≤ 255) (complete : vdecStep 16 r (byte e) = (r', some d))
    (fit : dfit c.deltaPolicy (sum + d) = .ok v) (n : Nat) :
    consumeOf c .dunpack (.du r sum) e n = .ok (.du r' v, [v]) := by
  rw [dunpackConsume_of_complete range complete, fit]; rfl

theorem finishOf_dunpack (r : VDec) (sum : Int) (n : Nat) : finishOf .dunpack (.du r sum) n = atCodeBoundary r := rfl

/-! ### The fold of DUNPACK over coded differences -/

theorem foldFrom_dunpack (bs : List Nat) (r : VDec) (sum : Int) (n : Nat) (vs : List Int) (bytes : ∀ b ∈ bs, b < 256)
    (closed : (decodeStream 16 r bs).1.esc = false)
    (decodes : (decodeStream 16 r bs).2 = (differences sum vs).map codedDifference) (fits : ∀ v ∈ vs, FitsS 16 v)
    (codable : ∀ d ∈ differences sum vs, isCodableDifference c.deltaPolicy d = true) :
    foldFrom c .dunpack (.du r sum) n (naturals bs) = .done vs := by
  induction bs generalizing r sum n vs with
  | nil =>
    cases vs with
    | cons v vs => cases decodes
    | nil =>
      have outside : r.esc = false := closed
      simp [naturals, foldFrom, finishOf_dunpack, atCodeBoundary, outside]
  | cons b bs ih =>
    obtain ⟨small, bytes⟩ := List.forall_mem_cons.mp bytes
    have range : -128 ≤ (b : Int) ∧ (b : Int) ≤ 255 := by omega
    change foldFrom c .dunpack (.du r sum) n ((b : Int) :: naturals bs) = .done vs
    rcases result : vdecStep 16 r b with ⟨r', _ | d⟩
    · simp only [decodeStream, result, decoded, Option.toList_none, List.nil_append] at closed decodes
      have consumed := dunpackConsume_of_inside (c := c) (sum := sum) range ((byte_natCast small).symm ▸ result) n
      rw [foldFrom_ok consumed, ih r' sum (n + 1) vs bytes closed decodes fits codable]
      rfl
    · simp only [decodeStream, result, decoded, Option.toList_some, List.singleton_append] at closed decodes
      cases vs with
      | nil => cases decodes
      | cons v vs =>
        rw [differences, List.map_cons, List.cons.injEq] at decodes
        obtain ⟨rfl, decodes⟩ := decodes
        obtain ⟨v_fits, fits⟩ := List.forall_mem_cons.mp fits
        obtain ⟨v_codable, codable⟩ := List.forall_mem_cons.mp codable
        have consumed := dunpackConsume_of_sum range ((byte_natCast small).symm ▸ result)
          (dfit_add_codedDifference v_fits v_codable) n
        rw [foldFrom_ok consumed, ih r' v (n + 1) vs bytes closed decodes fits codable]
        rfl

/-- R174: the stream of coded differences unpacks to the list they come from. -/
theorem commandResult_dunpack_deltaStream (c : Config) (lenS : Word) (fits : ∀ v ∈ vs, FitsS 16 v)
    (codable : ∀ d ∈ differences 0 vs, isCodableDifference c.deltaPolicy d = true) :
    commandResult c .dunpack lenS (naturals (deltaStream 0 vs)) = .done vs := by
  have coded_fits : ∀ d ∈ (differences 0 vs).map codedDifference, FitsS 16 d :=
    List.forall_mem_map.mpr fun d _ => codedDifference_fits d
  have decodes : decodeStream 16 vdecInit (deltaStream 0 vs) = (vdecInit, (differences 0 vs).map codedDifference) :=
    decodeStream_varintStream (.inl rfl) coded_fits
  exact foldFrom_dunpack (deltaStream 0 vs) vdecInit 0 0 vs varintStream_lt (by rw [decodes]; rfl) (by rw [decodes]) fits codable

end

/-- Settles O48: one clause of R173 after the other. -/
theorem dunpackByte : Obligations.DunpackByte := by
  intro c r r' sum e n
  refine ⟨fun outside => dunpackConsume_of_not_byte (by omega) n, fun lower upper => ⟨?inside, ?complete⟩, rfl⟩
  case inside => exact fun inside => dunpackConsume_of_inside ⟨lower, upper⟩ inside n
  case complete =>
    intro d complete
    refine ⟨fun fits => ?_, fun wide policy => ?_, fun wide policy => ?_⟩
    · exact dunpackConsume_of_sum ⟨lower, upper⟩ complete (dfit_of_fits fits) n
    · exact dunpackConsume_of_sum ⟨lower, upper⟩ complete (policy ▸ dfit_wrap16 wide) n
    · rw [dunpackConsume_of_complete ⟨lower, upper⟩ complete, policy, dfit_fault wide]; rfl

/-- Settles O46: the fold from PREV = 0. Where the whole input is accepted, its differences are those of the accepted part. -/
theorem dpackResult : Obligations.DpackResult := by
  intro c lenS vs ds good
  by_cases empty : vs = []
  · subst empty; rfl
  rw [commandResult_dpack c lenS empty, if_neg empty]
  refine if_ctx_congr Iff.rfl (fun _ => rfl) fun whole => ?_
  obtain ⟨fits, -⟩ := (length_acceptedDifferences_eq_iff c.deltaPolicy 0 vs).mp (not_not.mp whole)
  have accepted : ds = differences 0 vs :=
    congrArg (differences 0) (List.takeWhile_eq_self_iff.mpr fun v hv => isSignedElement_iff.mpr (fits v hv))
  rw [accepted, deltaStream, varintStream, List.flatMap_map]

/-- Settles O47: DPACK reaches DONE exactly where every element and difference is in range, and there its output unpacks to
its input. Under wrap16 every difference is. -/
theorem deltaRoundTrip : Obligations.DeltaRoundTrip := by
  intro c lenS vs
  refine ⟨fun bs _ packed => ?fault, fun policy nonempty fits => ?wrap16⟩
  case fault =>
    have nonempty : vs ≠ [] := by rintro rfl; cases packed
    rw [commandResult_dpack c lenS nonempty] at packed
    split_ifs at packed with whole
    obtain ⟨fits, codable⟩ := (length_acceptedDifferences_eq_iff c.deltaPolicy 0 vs).mp (not_not.mp whole)
    cases packed
    exact commandResult_dunpack_deltaStream c lenS fits codable
  case wrap16 =>
    have codable : ∀ d ∈ differences 0 vs, isCodableDifference c.deltaPolicy d = true :=
      fun _ _ => isCodableDifference_iff.mpr (.inl policy)
    have whole := (length_acceptedDifferences_eq_iff c.deltaPolicy 0 vs).mpr ⟨fits, codable⟩
    refine ⟨naturals (deltaStream 0 vs), ?_, commandResult_dunpack_deltaStream c lenS fits codable⟩
    rw [commandResult_dpack c lenS nonempty, if_neg (not_not.mpr whole)]

end Sys2Proof.Machine

/-! PROOF. The run-length encoder (43_rle.md R185 to R190): its transition table, the blocks of a gap followed by a run, and the
fold of RLEENC as the closed form on the elements no triple has been emitted for yet. -/
namespace Sys2Proof.Machine

section
variable {c : Config} {r : REnc} {e : Int} {v i : Nat}

/-! ### The transition table -/

theorem emitTriple_of_fits {g l : Nat} (gap : g ≤ 65535) (len : l ≤ 65535) (v : Nat) :
    emitTriple g l v = .ok (tripleWords ⟨g, l, v⟩) := if_pos ⟨gap, len⟩

theorem emitTriple_of_oversize {g l : Nat} (oversize : 65535 < g ∨ 65535 < l) (v : Nat) :
    emitTriple g l v = .error .rangeOverflow := if_neg (by omega)

theorem rleencConsume_of_state (state : v ≤ 255) : consumeOf c .rleenc (.re r) v i = encodeState r v i := by
  simp only [consumeOf, rleencConsume, checkState_of_range state, check]

theorem rleencConsume_of_not_state (outside : ¬ (0 ≤ e ∧ e ≤ 255)) :
    consumeOf c .rleenc (.re r) e i = .error .rangeOverflow := by
  simp only [consumeOf, rleencConsume, checkState, if_neg outside, check]

theorem encodeState_noRun_zero (closed : r.rs = .noRun) : encodeState r 0 i = .ok (.re r, []) := by
  simp [encodeState, closed]

theorem encodeState_noRun_pos (closed : r.rs = .noRun) (pos : 0 < v) :
    encodeState r v i = .ok (.re ⟨.inRun, v, 1, i - r.mark, r.mark⟩, []) := by
  simp only [encodeState, closed, if_pos pos]

theorem encodeState_same (opened : r.rs = .inRun) : encodeState r r.cur i = .ok (.re { r with rlen := r.rlen + 1 }, []) := by
  simp [encodeState, opened]

theorem encodeState_oversize (opened : r.rs = .inRun) (other : v ≠ r.cur) (oversize : 65535 < r.gap ∨ 65535 < r.rlen) :
    encodeState r v i = .error .rangeOverflow := by
  simp only [encodeState, opened, if_neg other, emitTriple_of_oversize oversize, check]

theorem encodeState_other (opened : r.rs = .inRun) (other : v ≠ r.cur) (gap : r.gap ≤ 65535) (len : r.rlen ≤ 65535) :
    encodeState r v i = .ok (.re (if v = 0 then ⟨.noRun, 0, 0, 0, i⟩ else ⟨.inRun, v, 1, 0, i⟩),
      tripleWords ⟨r.gap, r.rlen, r.cur⟩) := by
  simp only [encodeState, opened, if_neg other, emitTriple_of_fits gap len, check]
  rcases Nat.eq_zero_or_pos v with rfl | pos
  · rfl
  · simp only [if_pos pos, if_neg pos.ne']

theorem finishOf_rleenc_noRun (closed : r.rs = .noRun) : finishOf .rleenc (.re r) i = .ok [] := by
  simp only [finishOf, rleencFinish, closed]

theorem finishOf_rleenc_inRun (opened : r.rs = .inRun) :
    finishOf .rleenc (.re r) i = check (emitTriple r.gap r.rlen r.cur) .ok := by
  simp only [finishOf, rleencFinish, opened]

end

/-- Settles O49: one clause of R189 after the other. -/
theorem rleencTransitionTable : Obligations.RleencTransitionTable := by
  intro c r v i state
  simp only [rleencConsume_of_state state]
  refine ⟨?_, encodeState_noRun_pos, ?_, encodeState_oversize, encodeState_other⟩
  · rintro closed rfl; exact encodeState_noRun_zero closed
  · rintro opened rfl; exact encodeState_same opened

section
variable {xs : List Nat} {v n g l : Nat}

/-! ### The blocks of a gap and a run -/

theorem head?_blocks (xs : List Nat) : (blocks xs).head?.map Prod.fst = xs.head? := by
  cases xs with
  | nil => rfl
  | cons x xs =>
    rw [blocks]
    split
    · split_ifs with same <;> simp [same]
    · rfl

/-- A run that its right neighbour does not lengthen is one block. -/
theorem blocks_replicate_append (nonempty : 0 < n) (ends : xs.head? ≠ some v) :
    blocks (List.replicate n v ++ xs) = (v, n) :: blocks xs := by
  induction n, nonempty using Nat.le_induction with
  | base =>
    have head := head?_blocks xs
    change blocks (v :: xs) = _
    rw [blocks]
    split
    next w m rest found =>
      have other : v ≠ w := by rintro rfl; exact ends (by rw [← head, found]; rfl)
      rw [if_neg other, found]
    next found => rw [found]
  | succ n _ ih => rw [List.replicate_succ, List.cons_append, blocks, ih]; exact if_pos rfl

/-- The elements of a triple are its zeros, if it has any, and its run. -/
theorem blocks_expand_append (value : v ≠ 0) (len : 0 < l) (ends : xs.head? ≠ some v) :
    blocks (expand g l v ++ xs) = (if g = 0 then [] else [(0, g)]) ++ (v, l) :: blocks xs := by
  rw [expand, List.append_assoc]
  split_ifs with gap
  · subst gap; exact blocks_replicate_append len ends
  · have zerosEnd : (List.replicate l v ++ xs).head? ≠ some 0 := by
      obtain ⟨l, rfl⟩ := Nat.exists_eq_succ_of_ne_zero len.ne'
      simpa [List.replicate_succ] using value
    rw [blocks_replicate_append (Nat.pos_of_ne_zero gap) zerosEnd, blocks_replicate_append len ends]
    rfl

theorem triplesOf_expand_append (value : v ≠ 0) (len : 0 < l) (ends : xs.head? ≠ some v) :
    triplesOf 0 (blocks (expand g l v ++ xs)) = ⟨g, l, v⟩ :: triplesOf 0 (blocks xs) := by
  rw [blocks_expand_append value len ends]
  split_ifs with gap <;> simp [triplesOf, value, gap]

theorem oversizeEnd_expand_append (pos : Nat) (value : v ≠ 0) (len : 0 < l) (ends : xs.head? ≠ some v) :
    oversizeEnd pos 0 (blocks (expand g l v ++ xs)) =
      if 65535 < g ∨ 65535 < l then some (pos + g + l) else oversizeEnd (pos + g + l) 0 (blocks xs) := by
  rw [blocks_expand_append value len ends]
  by_cases gap : g = 0 <;> simp [oversizeEnd, value, gap]

/-! ### The closed form of RLEENC from the end of a run on -/

/-- What RLEENC gives for the elements xs from index pos on, where a run has just ended; the input ends after them iff whole,
and else an element outside [0, 255] follows (43_rle.md R185, R190). -/
def encodeResult (pos : Nat) (xs : List Nat) (whole : Prop) [Decidable whole] : CommandResult :=
  match oversizeEnd pos 0 (blocks xs) with
  | some j => .failed .rangeOverflow j
  | none => if whole then .done ((triplesOf 0 (blocks xs)).flatMap tripleWords) else .failed .rangeOverflow (pos + xs.length)

variable {whole : Prop} [Decidable whole]

theorem encodeResult_zeros (pos n : Nat) :
    encodeResult pos (List.replicate n 0) whole = if whole then .done [] else .failed .rangeOverflow (pos + n) := by
  cases n with
  | zero => rfl
  | succ n =>
    have zeros := blocks_replicate_append (xs := []) (v := 0) n.succ_pos nofun
    rw [List.append_nil] at zeros
    simp [encodeResult, zeros, blocks, oversizeEnd, triplesOf]

/-- The first triple is emitted, or refused at the end of its run. -/
theorem encodeResult_expand_append (pos : Nat) (value : v ≠ 0) (len : 0 < l) (ends : xs.head? ≠ some v) :
    encodeResult pos (expand g l v ++ xs) whole =
      if 65535 < g ∨ 65535 < l then .failed .rangeOverflow (pos + g + l)
      else (encodeResult (pos + g + l) xs whole).after (tripleWords ⟨g, l, v⟩) := by
  simp only [encodeResult, oversizeEnd_expand_append pos value len ends, triplesOf_expand_append value len ends]
  by_cases oversize : 65535 < g ∨ 65535 < l
  · simp only [if_pos oversize]
  · simp only [if_neg oversize]
    cases oversizeEnd (pos + g + l) 0 (blocks xs)
    case some j => rfl
    case none => split_ifs <;> simp [Nat.add_assoc]

end

section
variable {c : Config} {r : REnc} {i : Nat} {e : Int}

/-! ### The fold of RLEENC -/

/-- The elements consumed since MARK, the end of the last run a triple was emitted for (43_rle.md R186). -/
def REnc.held (r : REnc) (i : Nat) : List Nat :=
  match r.rs with
  | .noRun => List.replicate (i - r.mark) 0
  | .inRun => expand r.gap r.rlen r.cur

theorem REnc.held_noRun (closed : r.rs = .noRun) : r.held i = List.replicate (i - r.mark) 0 := by
  simp only [REnc.held, closed]

theorem REnc.held_inRun (opened : r.rs = .inRun) : r.held i = expand r.gap r.rlen r.cur := by
  simp only [REnc.held, opened]

/-- The state bytes before the first element that is none. -/
def stateBytes (es : List Int) : List Nat := (es.takeWhile isStateElement).map Int.toNat

theorem isStateElement_iff : isStateElement e = true ↔ 0 ≤ e ∧ e ≤ 255 := decide_eq_true_iff

theorem stateBytes_nil : stateBytes [] = [] := rfl

theorem stateBytes_cons_of_state {v : Nat} (state : v ≤ 255) (es : List Int) :
    stateBytes ((v : Int) :: es) = v :: stateBytes es := by
  have accepted : isStateElement (v : Int) = true := isStateElement_iff.mpr (by omega)
  simp [stateBytes, accepted]

theorem stateBytes_cons_of_not_state (outside : ¬ (0 ≤ e ∧ e ≤ 255)) (es : List Int) : stateBytes (e :: es) = [] := by
  rw [stateBytes, List.takeWhile_cons_of_neg (mt isStateElement_iff.mp outside)]; rfl

/-- What RLEENC gives with the registers r at index i on the elements es, by the closed form. -/
def encodeFrom (r : REnc) (i : Nat) (es : List Int) : CommandResult :=
  encodeResult r.mark (r.held i ++ stateBytes es) ((stateBytes es).length = es.length)

/-- An open run that the next element does not lengthen. -/
theorem encodeFrom_inRun (ok : r.Ok i) (opened : r.rs = .inRun) {es : List Int} (ends : (stateBytes es).head? ≠ some r.cur) :
    encodeFrom r i es =
      if 65535 < r.gap ∨ 65535 < r.rlen then .failed .rangeOverflow i
      else (encodeResult i (stateBytes es) ((stateBytes es).length = es.length)).after (tripleWords ⟨r.gap, r.rlen, r.cur⟩) := by
  obtain ⟨cur, -, rlen, total⟩ := ok.2 opened
  rw [encodeFrom, REnc.held_inRun opened, encodeResult_expand_append r.mark (by omega) rlen ends, total]

/-- An element that gives no triple joins those held. -/
theorem encodeFrom_hold {r' : REnc} {v : Nat} (state : v ≤ 255) (mark : r'.mark = r.mark)
    (held : r'.held (i + 1) = r.held i ++ [v]) (es : List Int) :
    encodeFrom r i ((v : Int) :: es) = encodeFrom r' (i + 1) es := by
  simp only [encodeFrom, mark, held, stateBytes_cons_of_state state, List.length_cons, Nat.add_right_cancel_iff,
    List.append_assoc, List.singleton_append]

/-- At the end of the input. -/
theorem foldFrom_rleenc_nil (ok : r.Ok i) : foldFrom c .rleenc (.re r) i [] = encodeFrom r i [] := by
  cases state : r.rs
  case noRun =>
    rw [encodeFrom, REnc.held_noRun state, stateBytes_nil, List.append_nil, encodeResult_zeros]
    simp only [foldFrom, finishOf_rleenc_noRun state]
    rfl
  case inRun =>
    rw [encodeFrom_inRun ok state (by rw [stateBytes_nil]; nofun)]
    simp only [foldFrom, finishOf_rleenc_inRun state]
    split_ifs with oversize
    · rw [emitTriple_of_oversize oversize]; rfl
    · rw [emitTriple_of_fits (by omega) (by omega)]; rfl

/-- At an element outside [0, 255]: a run that is too long ends here too, with the same error at the same index. -/
theorem encodeFrom_of_not_state (ok : r.Ok i) (outside : ¬ (0 ≤ e ∧ e ≤ 255)) (es : List Int) :
    encodeFrom r i (e :: es) = .failed .rangeOverflow i := by
  have refused := stateBytes_cons_of_not_state outside es
  have short : ¬ ((stateBytes (e :: es)).length = (e :: es).length) := by simp [refused]
  cases state : r.rs
  case noRun =>
    obtain ⟨-, -, -, mark⟩ := ok.1 state
    rw [encodeFrom, REnc.held_noRun state, refused, List.append_nil, encodeResult_zeros, if_neg (refused ▸ short),
      Nat.add_sub_cancel' mark]
  case inRun =>
    rw [encodeFrom_inRun ok state (by rw [refused]; nofun)]
    split_ifs
    · rfl
    · simp only [refused, List.length_nil, List.length_cons]; rfl

/-- At a state byte. -/
theorem encodeFrom_of_state {v : Nat} (ok : r.Ok i) (state : v ≤ 255) (es : List Int) :
    encodeFrom r i ((v : Int) :: es) = .failed .rangeOverflow i ∧ encodeState r v i = .error .rangeOverflow ∨
      ∃ r' outs, encodeState r v i = .ok (.re r', outs) ∧
        encodeFrom r i ((v : Int) :: es) = (encodeFrom r' (i + 1) es).after outs := by
  cases run : r.rs
  case noRun =>
    obtain ⟨-, -, -, mark⟩ := ok.1 run
    have held : List.replicate (i + 1 - r.mark) 0 = r.held i ++ [0] := by
      rw [REnc.held_noRun run, Nat.sub_add_comm mark, List.replicate_succ']
    refine .inr ?_
    rcases Nat.eq_zero_or_pos v with rfl | pos
    · refine ⟨r, [], encodeState_noRun_zero run, ?_⟩
      rw [after_nil]
      exact encodeFrom_hold state (by rfl) (by rw [REnc.held_noRun run, held]) es
    · refine ⟨⟨.inRun, v, 1, i - r.mark, r.mark⟩, [], encodeState_noRun_pos run pos, ?_⟩
      rw [after_nil]
      exact encodeFrom_hold state (by rfl) (by rw [REnc.held_noRun run]; rfl) es
  case inRun =>
    by_cases same : v = r.cur
    · subst same
      have held : { r with rlen := r.rlen + 1 }.held (i + 1) = r.held i ++ [r.cur] := by
        rw [REnc.held_inRun run, REnc.held_inRun (by exact run), expand, expand, List.replicate_succ', List.append_assoc]
      refine .inr ⟨_, [], encodeState_same run, ?_⟩
      rw [after_nil]
      exact encodeFrom_hold state (by rfl) held es
    · have ends : (stateBytes ((v : Int) :: es)).head? ≠ some r.cur := by
        simpa [stateBytes_cons_of_state state] using same
      rw [encodeFrom_inRun ok run ends]
      by_cases oversize : 65535 < r.gap ∨ 65535 < r.rlen
      · exact .inl ⟨if_pos oversize, encodeState_oversize run same oversize⟩
      · refine .inr ⟨_, _, encodeState_other run same (by omega) (by omega), ?_⟩
        rw [if_neg oversize]
        simp only [encodeFrom, stateBytes_cons_of_state state, List.length_cons, Nat.add_right_cancel_iff]
        rcases Nat.eq_zero_or_pos v with rfl | pos
        · simp [REnc.held]
        · simp [REnc.held, pos.ne', expand]

/-- RLEENC from the registers r at index i on. -/
theorem foldFrom_rleenc (ok : r.Ok i) (es : List Int) : foldFrom c .rleenc (.re r) i es = encodeFrom r i es := by
  induction es generalizing r i with
  | nil => exact foldFrom_rleenc_nil ok
  | cons e es ih =>
    by_cases range : 0 ≤ e ∧ e ≤ 255
    · obtain ⟨v, rfl⟩ := Int.eq_ofNat_of_zero_le range.1
      have state : v ≤ 255 := by omega
      have consume := rleencConsume_of_state (c := c) (r := r) (i := i) state
      rcases encodeFrom_of_state ok state es with ⟨closed, error⟩ | ⟨r', outs, next, closed⟩
      · rw [foldFrom_error (consume.trans error), closed]
      · obtain ⟨_, same, ok'⟩ := encodeState_recordOk ok state next
        cases same
        rw [foldFrom_ok (consume.trans next), ih ok', closed]
    · rw [foldFrom_error (rleencConsume_of_not_state range), encodeFrom_of_not_state ok range]

/-- The closed form of RLEENC, from the first element on. -/
theorem commandResult_rleenc (c : Config) (lenS : Word) (es : List Int) :
    commandResult c .rleenc lenS es = encodeResult 0 (stateBytes es) ((stateBytes es).length = es.length) :=
  foldFrom_rleenc (by simp [REnc.Ok, rleInit]) es

end

/-- Settles O50: the fold from the first element, with nothing held. -/
theorem rleencIsTheClosedForm : Obligations.RleencIsTheClosedForm := by
  intro c lenS es good bs
  have closed := commandResult_rleenc c lenS es
  simp only [encodeResult, stateBytes, List.length_map, Nat.zero_add] at closed
  exact closed

end Sys2Proof.Machine

/-! PROOF. The run-length decoder (43_rle.md R191 to R198): RLEDEC over whole triples, its rejections and its closed form, and the
expansion of the encoder's triples. -/
namespace Sys2Proof.Machine

section
variable {c : Config} {r : RDec} {e : Int} {g l v u N n w : Nat}

/-! ### One word -/

theorem rledecConsume_of_not_u16 (outside : ¬ FitsU 16 e) : consumeOf c .rledec (.rd r) e n = .error .rangeOverflow := by
  simp only [consumeOf, rledecConsume, checkU16, if_neg outside, check]

theorem rledecConsume_gap (word : w ≤ 65535) :
    consumeOf c .rledec (.rd ⟨0, g, l, u, N⟩) w n = .ok (.rd ⟨1, w, l, u, N⟩, []) := by
  simp only [consumeOf, rledecConsume, checkU16_of_range word, check, if_pos]

theorem rledecConsume_len (word : w ≤ 65535) :
    consumeOf c .rledec (.rd ⟨1, g, l, u, N⟩) w n = .ok (.rd ⟨2, g, w, u, N⟩, []) := by
  simp only [consumeOf, rledecConsume, checkU16_of_range word, check, if_pos, if_neg one_ne_zero]

theorem rledecConsume_value (word : w ≤ 65535) :
    consumeOf c .rledec (.rd ⟨2, g, l, u, N⟩) w n = decodeTriple ⟨2, g, l, u, N⟩ w := by
  simp [consumeOf, rledecConsume, checkU16_of_range word, check]

theorem decodeTriple_corrupt (value : 255 < v) : decodeTriple r v = .error .corruptContainer := if_pos value

theorem decodeTriple_long (value : v ≤ 255) (long : N < u + g + l) :
    decodeTriple ⟨w, g, l, u, N⟩ v = .error .channelLengthMismatch := by
  rw [decodeTriple, if_neg (not_lt.mpr value), if_pos long]

theorem decodeTriple_ok (value : v ≤ 255) (room : u + g + l ≤ N) :
    decodeTriple ⟨w, g, l, u, N⟩ v = .ok (.rd ⟨0, 0, 0, u + g + l, N⟩, naturals (tripleBytes ⟨g, l, v⟩)) := by
  rw [decodeTriple, if_neg (not_lt.mpr value), if_neg (not_lt.mpr room)]; rfl

/-- The end of the input after whole triples pads the output to N. -/
theorem finishOf_rledec_whole : finishOf .rledec (.rd ⟨0, g, l, u, N⟩) n = .ok (naturals (List.replicate (N - u) 0)) := rfl

theorem finishOf_rledec_cut (cut : r.wcnt ≠ 0) : finishOf .rledec (.rd r) n = .error .corruptContainer := if_pos cut

/-! ### One triple -/

/-- A triple RLEDEC can hold: gap and length u16 words, value a state byte (30_encoding.md R104; 43_rle.md R192). -/
abbrev Triple.InRange (t : Triple) : Prop := t.gap ≤ 65535 ∧ t.len ≤ 65535 ∧ t.value ≤ 255

theorem foldFrom_rledec_gap (gap : g ≤ 65535) (es : List Int) :
    foldFrom c .rledec (.rd ⟨0, 0, 0, u, N⟩) n ((g : Int) :: es) = foldFrom c .rledec (.rd ⟨1, g, 0, u, N⟩) (n + 1) es := by
  rw [foldFrom_ok (rledecConsume_gap gap), after_nil]

theorem foldFrom_rledec_len (len : l ≤ 65535) (es : List Int) :
    foldFrom c .rledec (.rd ⟨1, g, w, u, N⟩) n ((l : Int) :: es) = foldFrom c .rledec (.rd ⟨2, g, l, u, N⟩) (n + 1) es := by
  rw [foldFrom_ok (rledecConsume_len len), after_nil]

theorem foldFrom_rledec_gap_len (gap : g ≤ 65535) (len : l ≤ 65535) (es : List Int) :
    foldFrom c .rledec (.rd ⟨0, 0, 0, u, N⟩) n ((g : Int) :: (l : Int) :: es) =
      foldFrom c .rledec (.rd ⟨2, g, l, u, N⟩) (n + 2) es := by
  rw [foldFrom_rledec_gap gap, foldFrom_rledec_len len]

theorem foldFrom_tripleWords {t : Triple} (range : t.InRange) (room : u + t.gap + t.len ≤ N) (es : List Int) :
    foldFrom c .rledec (.rd ⟨0, 0, 0, u, N⟩) n (tripleWords t ++ es) =
      (foldFrom c .rledec (.rd ⟨0, 0, 0, u + t.gap + t.len, N⟩) (n + 3) es).after (naturals (tripleBytes t)) := by
  obtain ⟨gap, len, value⟩ := range
  have consumed := (rledecConsume_value (c := c) (n := n + 2) (by omega)).trans (decodeTriple_ok value room)
  exact (foldFrom_rledec_gap_len gap len _).trans (foldFrom_ok consumed es)

theorem length_bytes_cons (t : Triple) (ts : List Triple) :
    ((t :: ts).flatMap tripleBytes).length = t.gap + t.len + (ts.flatMap tripleBytes).length := by
  rw [List.flatMap_cons, List.length_append, tripleBytes, expand_length]

/-- RLEDEC over whole triples that expand to at most N bytes. -/
theorem foldFrom_triples {ts : List Triple} (range : ∀ t ∈ ts, t.InRange) (room : u + (ts.flatMap tripleBytes).length ≤ N)
    (es : List Int) :
    foldFrom c .rledec (.rd ⟨0, 0, 0, u, N⟩) n (ts.flatMap tripleWords ++ es) =
      (foldFrom c .rledec (.rd ⟨0, 0, 0, u + (ts.flatMap tripleBytes).length, N⟩) (n + 3 * ts.length) es).after
        (naturals (ts.flatMap tripleBytes)) := by
  induction ts generalizing u n with
  | nil => exact (after_nil _).symm
  | cons t ts ih =>
    obtain ⟨head, tail⟩ := List.forall_mem_cons.mp range
    rw [length_bytes_cons] at room
    have rest := ih (u := u + t.gap + t.len) (n := n + 3) tail (by omega)
    have index : n + 3 + 3 * ts.length = n + 3 * (t :: ts).length := by rw [List.length_cons]; omega
    have total : u + t.gap + t.len + (ts.flatMap tripleBytes).length = u + ((t :: ts).flatMap tripleBytes).length := by
      rw [length_bytes_cons]; omega
    rw [List.flatMap_cons, List.append_assoc, foldFrom_tripleWords head (by omega), rest, after_after, ← naturals_append,
      index, total, ← List.flatMap_cons]

theorem commandResult_rledec_triples (c : Config) {lenS : Word} {ts : List Triple} (range : ∀ t ∈ ts, t.InRange)
    (room : (ts.flatMap tripleBytes).length ≤ lenS.toNat) (es : List Int) :
    commandResult c .rledec lenS (ts.flatMap tripleWords ++ es) =
      (foldFrom c .rledec (.rd ⟨0, 0, 0, (ts.flatMap tripleBytes).length, lenS.toNat⟩) (3 * ts.length) es).after
        (naturals (ts.flatMap tripleBytes)) := by
  have result := foldFrom_triples (c := c) (u := 0) (N := lenS.toNat) (n := 0) range (by rwa [Nat.zero_add]) es
  rwa [Nat.zero_add, Nat.zero_add] at result

/-- R197, from the triples to the output. -/
theorem commandResult_rledec_of_triples (c : Config) {lenS : Word} {ts : List Triple} (range : ∀ t ∈ ts, t.InRange)
    (room : (ts.flatMap tripleBytes).length ≤ lenS.toNat) :
    commandResult c .rledec lenS (ts.flatMap tripleWords) =
      .done (naturals (ts.flatMap tripleBytes ++ List.replicate (lenS.toNat - (ts.flatMap tripleBytes).length) 0)) := by
  have result := commandResult_rledec_triples c range room []
  rw [List.append_nil] at result
  simp only [result, naturals_append, foldFrom, finishOf_rledec_whole, after_done]

/-! ### What RLEDEC accepts -/

theorem after_eq_done {a : CommandResult} {outs xs : List Int} (h : a.after outs = .done xs) :
    ∃ rest, a = .done rest ∧ xs = outs ++ rest := by
  cases a <;> cases h
  exact ⟨_, rfl, rfl⟩

theorem foldFrom_ne_done_of_error {i : Instr} {d : Datapath} {k : ErrKind} (error : consumeOf c i d e n = .error k)
    (es xs : List Int) : foldFrom c i d n (e :: es) ≠ .done xs := by
  rw [foldFrom_error error]; nofun

/-- Every word of an accepted input is a u16 word. -/
theorem u16_of_foldFrom_done {es xs : List Int} (h : foldFrom c .rledec (.rd r) n (e :: es) = .done xs) :
    ∃ w : Nat, e = w ∧ w ≤ 65535 := by
  by_cases word : FitsU 16 e
  · obtain ⟨w, rfl⟩ := Int.eq_ofNat_of_zero_le word.1
    exact ⟨w, rfl, by simp only [FitsU] at word; omega⟩
  · exact absurd h (foldFrom_ne_done_of_error (rledecConsume_of_not_u16 word) es xs)

theorem foldFrom_rledec_nil_of_cut (cut : r.wcnt ≠ 0) : foldFrom c .rledec (.rd r) n [] = .failed .corruptContainer n := by
  simp only [foldFrom, finishOf_rledec_cut cut]

/-- R197, from the output to the triples: an accepted input is whole triples. -/
theorem triples_of_foldFrom_done {u n : Nat} {xs : List Int} (bound : u ≤ N) :
    ∀ {ws : List Int}, foldFrom c .rledec (.rd ⟨0, 0, 0, u, N⟩) n ws = .done xs →
      ∃ ts : List Triple, ws = ts.flatMap tripleWords ∧ (∀ t ∈ ts, t.InRange) ∧ u + (ts.flatMap tripleBytes).length ≤ N
  | [], _ => ⟨[], rfl, nofun, bound⟩
  | [a], h => by
    obtain ⟨g, rfl, gap⟩ := u16_of_foldFrom_done h
    rw [foldFrom_rledec_gap gap, foldFrom_rledec_nil_of_cut one_ne_zero] at h
    cases h
  | [a, b], h => by
    obtain ⟨g, rfl, gap⟩ := u16_of_foldFrom_done h
    rw [foldFrom_rledec_gap gap] at h
    obtain ⟨l, rfl, len⟩ := u16_of_foldFrom_done h
    rw [foldFrom_rledec_len len, foldFrom_rledec_nil_of_cut two_ne_zero] at h
    cases h
  | a :: b :: e :: ws, h => by
    obtain ⟨g, rfl, gap⟩ := u16_of_foldFrom_done h
    rw [foldFrom_rledec_gap gap] at h
    obtain ⟨l, rfl, len⟩ := u16_of_foldFrom_done h
    rw [foldFrom_rledec_len len] at h
    obtain ⟨v, rfl, word⟩ := u16_of_foldFrom_done h
    have consume := rledecConsume_value (c := c) (g := g) (l := l) (u := u) (N := N) (n := n + 2) word
    by_cases value : 255 < v
    · exact absurd h (foldFrom_ne_done_of_error (consume.trans (decodeTriple_corrupt value)) ws xs)
    by_cases long : N < u + g + l
    · exact absurd h (foldFrom_ne_done_of_error (consume.trans (decodeTriple_long (by omega) long)) ws xs)
    rw [foldFrom_ok (consume.trans (decodeTriple_ok (by omega) (not_lt.mp long)))] at h
    obtain ⟨rest, h, -⟩ := after_eq_done h
    obtain ⟨ts, rfl, range, room⟩ := triples_of_foldFrom_done (not_lt.mp long) h
    refine ⟨⟨g, l, v⟩ :: ts, rfl, List.forall_mem_cons.mpr ⟨⟨gap, len, not_lt.mp value⟩, range⟩, ?_⟩
    rw [length_bytes_cons]
    dsimp only
    omega

/-- R197: RLEDEC reaches DONE exactly on whole triples in range that expand to at most N bytes. -/
theorem commandResult_rledec_eq_done_iff (c : Config) (lenS : Word) (ws xs : List Int) :
    commandResult c .rledec lenS ws = .done xs ↔
      ∃ ts : List Triple, ws = ts.flatMap tripleWords ∧ (∀ t ∈ ts, t.InRange) ∧
        (ts.flatMap tripleBytes).length ≤ lenS.toNat ∧
        xs = naturals (ts.flatMap tripleBytes ++ List.replicate (lenS.toNat - (ts.flatMap tripleBytes).length) 0) := by
  constructor
  · intro h
    obtain ⟨ts, rfl, range, room⟩ := triples_of_foldFrom_done (Nat.zero_le _) h
    rw [Nat.zero_add] at room
    rw [commandResult_rledec_of_triples c range room] at h
    cases h
    exact ⟨ts, rfl, range, room, rfl⟩
  · rintro ⟨ts, rfl, range, room, rfl⟩
    exact commandResult_rledec_of_triples c range room

end

/-- Settles O51: the zeros after the expansions fill the output up to N. -/
theorem rledecIsTheClosedForm : Obligations.RledecIsTheClosedForm := by
  intro c lenS ws xs
  refine ⟨commandResult_rledec_eq_done_iff c lenS ws xs, fun h => ?_⟩
  obtain ⟨ts, -, -, room, rfl⟩ := (commandResult_rledec_eq_done_iff c lenS ws xs).mp h
  rw [naturals, List.length_map, List.length_append, List.length_replicate, Nat.add_sub_cancel' room]

/-- Settles O53: the whole triples leave the record of a fresh one, and the next words are refused from there. -/
theorem rledecRejections : Obligations.RledecRejections := by
  intro c lenS ts g l v e rest range room gap len word
  simp only [commandResult_rledec_triples c range room, foldFrom_rledec_gap_len gap len]
  refine ⟨fun outside => ⟨?_, ?_, ?_⟩, fun value => ?_, fun value long => ?_, ?_, ?_⟩
  · rw [foldFrom_error (rledecConsume_of_not_u16 outside), after_failed]
  · rw [foldFrom_rledec_gap gap, foldFrom_error (rledecConsume_of_not_u16 outside), after_failed]
  · rw [foldFrom_error (rledecConsume_of_not_u16 outside), after_failed]
  · rw [foldFrom_error ((rledecConsume_value word).trans (decodeTriple_corrupt value)), after_failed]
  · have refused := (rledecConsume_value (c := c) (n := 3 * ts.length + 2) word).trans (decodeTriple_long value long)
    rw [foldFrom_error refused, after_failed]
  · rw [foldFrom_rledec_gap gap, foldFrom_rledec_nil_of_cut one_ne_zero, after_failed]
  · rw [foldFrom_rledec_nil_of_cut two_ne_zero, after_failed]

section
variable {bs : List (Nat × Nat)} {es ws : List Int}

/-! ### The encoder's triples, expanded -/

/-- The triples of a list of blocks stand for its elements but for the zeros at its end (43_rle.md R185). -/
theorem triplesOf_bytes (zeros : Nat) (bs : List (Nat × Nat)) :
    ∃ k, (triplesOf zeros bs).flatMap tripleBytes ++ List.replicate k 0 =
      List.replicate zeros 0 ++ bs.flatMap fun p => List.replicate p.2 p.1 := by
  induction bs generalizing zeros with
  | nil => exact ⟨zeros, by simp [triplesOf]⟩
  | cons p bs ih =>
    obtain ⟨v, n⟩ := p
    rw [triplesOf]
    split_ifs with zero
    · obtain ⟨k, same⟩ := ih (zeros + n)
      exact ⟨k, by rw [same, zero, List.replicate_add, List.flatMap_cons, List.append_assoc]⟩
    · obtain ⟨k, same⟩ := ih 0
      refine ⟨k, ?_⟩
      rw [List.flatMap_cons, List.append_assoc, same, List.flatMap_cons]
      simp [tripleBytes, expand]

/-- The bytes of the triples of xs, with the zeros that are missing, are xs. -/
theorem runTriples_bytes (xs : List Nat) :
    ((runTriples xs).flatMap tripleBytes).length ≤ xs.length ∧
      (runTriples xs).flatMap tripleBytes ++ List.replicate (xs.length - ((runTriples xs).flatMap tripleBytes).length) 0 = xs := by
  obtain ⟨k, same⟩ := triplesOf_bytes 0 (blocks xs)
  rw [blocks_expand, List.replicate_zero, List.nil_append] at same
  have length := congrArg List.length same
  rw [List.length_append, List.length_replicate] at length
  refine ⟨Nat.le.intro length, ?_⟩
  rw [← length, runTriples, Nat.add_sub_cancel_left, same]

theorem fst_mem_of_mem_blocks {xs : List Nat} {p : Nat × Nat} (h : p ∈ blocks xs) : p.1 ∈ xs := by
  induction xs with
  | nil => cases h
  | cons x xs ih =>
    rw [blocks] at h
    split at h
    next v n rest found =>
      rw [found] at ih
      split_ifs at h with same
      · rcases List.mem_cons.mp h with rfl | h
        · exact List.mem_cons.mpr (.inl same.symm)
        · exact List.mem_cons_of_mem _ (ih (List.mem_cons_of_mem _ h))
      · rcases List.mem_cons.mp h with rfl | h
        · exact List.mem_cons_self
        · exact List.mem_cons_of_mem _ (ih h)
    next => obtain rfl := List.mem_singleton.mp h; exact List.mem_cons_self

/-- Where no run is too long, the triples are in range but for the value, which is that of a block. -/
theorem triplesOf_inRange {pos zeros : Nat} (fits : oversizeEnd pos zeros bs = none) :
    ∀ t ∈ triplesOf zeros bs, t.gap ≤ 65535 ∧ t.len ≤ 65535 ∧ ∃ p ∈ bs, p.1 = t.value := by
  induction bs generalizing pos zeros with
  | nil => nofun
  | cons p bs ih =>
    obtain ⟨v, n⟩ := p
    rw [oversizeEnd] at fits
    rw [triplesOf]
    have tail {t : Triple} (h : t.gap ≤ 65535 ∧ t.len ≤ 65535 ∧ ∃ p ∈ bs, p.1 = t.value) :
        t.gap ≤ 65535 ∧ t.len ≤ 65535 ∧ ∃ p ∈ (v, n) :: bs, p.1 = t.value := by
      obtain ⟨gap, len, p, mem, value⟩ := h
      exact ⟨gap, len, p, List.mem_cons_of_mem _ mem, value⟩
    split_ifs at fits ⊢ with zero oversize
    · exact fun t mem => tail (ih fits t mem)
    · refine List.forall_mem_cons.mpr ⟨?_, fun t mem => tail (ih fits t mem)⟩
      exact ⟨by dsimp only; omega, by dsimp only; omega, _, List.mem_cons_self, rfl⟩

theorem stateBytes_le : ∀ x ∈ stateBytes es, x ≤ 255 := by
  refine List.forall_mem_map.mpr fun e mem => ?_
  obtain ⟨-, upper⟩ := isStateElement_iff.mp (List.mem_takeWhile_imp mem)
  omega

/-- Where the whole input is state bytes, they are the input. -/
theorem naturals_stateBytes (whole : (stateBytes es).length = es.length) : naturals (stateBytes es) = es := by
  rw [stateBytes, List.length_map] at whole
  have all := (List.takeWhile_sublist isStateElement).eq_of_length whole
  have same : ∀ e ∈ es, Int.ofNat e.toNat = e := fun e mem =>
    Int.toNat_of_nonneg (isStateElement_iff.mp (List.takeWhile_eq_self_iff.mp all e mem)).1
  rw [naturals, stateBytes, all, List.map_map]
  exact (List.map_congr_left same).trans (List.map_id es)

/-- RLEENC reaches DONE with the triples of its input, all in range. -/
theorem rleenc_done {c : Config} {lenS : Word} (h : commandResult c .rleenc lenS es = .done ws) :
    (stateBytes es).length = es.length ∧ ws = (runTriples (stateBytes es)).flatMap tripleWords ∧
      ∀ t ∈ runTriples (stateBytes es), t.InRange := by
  rw [commandResult_rleenc, encodeResult] at h
  split at h
  next => cases h
  next fits =>
    split_ifs at h with whole
    cases h
    refine ⟨whole, rfl, fun t mem => ?_⟩
    obtain ⟨gap, len, p, block, value⟩ := triplesOf_inRange fits t mem
    exact ⟨gap, len, value ▸ stateBytes_le _ (fst_mem_of_mem_blocks block)⟩

end

/-- Settles O52: the encoder's triples expand to the input without its last zeros, and RLEDEC pads them. -/
theorem runLengthRoundTrip : Obligations.RunLengthRoundTrip := by
  intro c lenS es ws short encoded
  obtain ⟨whole, rfl, range⟩ := rleenc_done encoded
  have len : (BitVec.ofNat 64 es.length).toNat = (stateBytes es).length := by
    rw [whole, BitVec.toNat_ofNat, Nat.mod_eq_of_lt short]
  obtain ⟨room, bytes⟩ := runTriples_bytes (stateBytes es)
  rw [commandResult_rledec_of_triples c range (len ▸ room), len, bytes, naturals_stateBytes whole]

end Sys2Proof.Machine

/-! PROOF. The position quantizer (44_segmenter.md R205 to R208, R214): rounding keeps the order against multiples of the
denominator, so it never crosses a bound of int16, and clamping acts only outside the bounds. -/
namespace Sys2Proof.Machine

section
variable {ties : RoundTies} {lo hi v k num den m e x : Int}

/-! ### Clamping (00_scope.md R13) -/

theorem clamp_bounds (ordered : lo ≤ hi) (v : Int) : lo ≤ clamp lo hi v ∧ clamp lo hi v ≤ hi := by
  unfold clamp; split_ifs <;> omega

theorem clamp_of_mem (lower : lo ≤ v) (upper : v ≤ hi) : clamp lo hi v = v := by
  rw [clamp, if_neg lower.not_gt, if_neg upper.not_gt]

theorem clamp_of_le (ordered : lo ≤ hi) (below : v ≤ lo) : clamp lo hi v = lo := by
  unfold clamp; split_ifs <;> omega

theorem clamp_of_ge (ordered : lo ≤ hi) (above : hi ≤ v) : clamp lo hi v = hi := by
  unfold clamp; split_ifs <;> omega

/-! ### Rounding against a multiple of the denominator -/

theorem le_roundTies (hden : 0 < den) (above : k * den ≤ num) : k ≤ roundTies ties num den := by
  have floor_above := Int.le_ediv_of_mul_le hden above
  rcases roundTies_cases ties num den with ⟨floor, -⟩ | ⟨ceil, -⟩ <;> omega

/-- Rounding goes up only from a remainder, and then the floor lies below k. -/
theorem roundTies_le (hden : 0 < den) (below : num ≤ k * den) : roundTies ties num den ≤ k := by
  rcases roundTies_cases ties num den with ⟨floor, -⟩ | ⟨ceil, half_le⟩
  · rw [floor]; exact Int.ediv_le_of_le_mul hden below
  · have remainder := sub_floor_mul num den
    have floor_below : num / den * den < k * den := by omega
    have := lt_of_mul_lt_mul_right floor_below hden.le
    omega

theorem roundTies_mul_self (hden : 0 < den) : roundTies ties (k * den) den = k :=
  le_antisymm (roundTies_le hden le_rfl) (le_roundTies hden le_rfl)

/-! ### The quantizer -/

theorem exponent_den_pos (e : Int) : (0 : Int) < 10 ^ e.toNat := by positivity

theorem qpos_fits (ties : RoundTies) (m e : Int) : FitsS 16 (qpos ties m e) := clamp_bounds (by decide) _

theorem qpos_of_ge (above : 32767 * 10 ^ e.toNat ≤ 16 * m) : qpos ties m e = 32767 :=
  clamp_of_ge (by decide) (le_roundTies (exponent_den_pos e) above)

theorem qpos_of_le (below : 16 * m ≤ -32768 * 10 ^ e.toNat) : qpos ties m e = -32768 :=
  clamp_of_le (by decide) (roundTies_le (exponent_den_pos e) below)

theorem qpos_of_mem (lower : -32768 * 10 ^ e.toNat ≤ 16 * m) (upper : 16 * m ≤ 32767 * 10 ^ e.toNat) :
    qpos ties m e = roundTies ties (16 * m) (10 ^ e.toNat) :=
  clamp_of_mem (le_roundTies (exponent_den_pos e) lower) (roundTies_le (exponent_den_pos e) upper)

/-- R214: `16 * (x * 625) = x * 10^4`, so the dequantized form of an int16 value is not rounded. -/
theorem qpos_dequantized (ties : RoundTies) (fits : FitsS 16 x) : qpos ties (x * 625) 4 = x := by
  have scaled : 16 * (x * 625) = x * 10 ^ (4 : Int).toNat := by rw [show (4 : Int).toNat = 4 from rfl]; omega
  obtain ⟨lower, upper⟩ : -32768 ≤ x ∧ x ≤ 32767 := by simp only [FitsS] at fits; omega
  have den_pos := exponent_den_pos 4
  have inLower := mul_le_mul_of_nonneg_right lower den_pos.le
  have inUpper := mul_le_mul_of_nonneg_right upper den_pos.le
  rw [qpos_of_mem (scaled ▸ inLower) (scaled ▸ inUpper), scaled, roundTies_mul_self den_pos]

end

/-- Settles O55: between the bounds the quantizer is `roundTies`, which is nearest. -/
theorem positionsSaturateAndDequantizeExactly : Obligations.PositionsSaturateAndDequantizeExactly := by
  refine ⟨qpos_fits, fun _ _ _ _ => qpos_of_ge, fun _ _ _ _ => qpos_of_le, fun ties m e _ lower upper => ?between,
    fun ties _ => qpos_dequantized ties⟩
  obtain ⟨least, greatest, tie⟩ := roundTiesIsNearest.2 ties (16 * m) (10 ^ e.toNat) (exponent_den_pos e)
  dsimp only
  rw [qpos_of_mem lower upper]
  refine ⟨least, greatest, fun half => ⟨(tie half).1, fun away => ?_⟩⟩
  obtain ⟨beyond, below⟩ := (tie half).2 away
  exact ⟨fun positive => beyond (by omega), fun negative => below (by omega)⟩

end Sys2Proof.Machine

/-! PROOF. Commands that read records (44_segmenter.md R212, R218): the fold over elements that are only stored, and
over a list of records. QSPLIT and QJOIN use both. -/
namespace Sys2Proof.Machine

section
variable {c : Config} {i : Instr} {n : Nat}

/-- Elements that a command stores one by one, its record being `d k` after k of them. -/
theorem foldFrom_take {d : Nat → Datapath} {ws : List Int} {m : Nat} (le : m ≤ ws.length)
    (stores : ∀ k (lt : k < m), consumeOf c i (d k) (ws[k]'(lt.trans_le le)) (n + k) = .ok (d (k + 1), []))
    (es : List Int) : foldFrom c i (d 0) n (ws.take m ++ es) = foldFrom c i (d m) (n + m) es := by
  induction m generalizing es with
  | zero => rfl
  | succ m ih =>
    have earlier := ih (Nat.le_of_succ_le le) (fun k lt => stores k (Nat.lt_succ_of_lt lt)) (ws[m] :: es)
    rw [← List.take_concat_get' ws m le, List.append_assoc, List.singleton_append, earlier,
      foldFrom_ok (stores m (Nat.lt_succ_self m)), after_nil, Nat.add_assoc]

/-- A list of records, each of which leaves the command's record as it was and gives the outputs `out`. -/
theorem foldFrom_flatMap {α : Type} {d : Datapath} {words out : α → List Int} {rs : List α}
    (each : ∀ r ∈ rs, ∀ n es,
      foldFrom c i d n (words r ++ es) = (foldFrom c i d (n + (words r).length) es).after (out r))
    (n : Nat) (es : List Int) :
    foldFrom c i d n (rs.flatMap words ++ es) =
      (foldFrom c i d (n + (rs.flatMap words).length) es).after (rs.flatMap out) := by
  induction rs generalizing n with
  | nil => exact (after_nil _).symm
  | cons r rs ih =>
    obtain ⟨head, tail⟩ := List.forall_mem_cons.mp each
    simp only [List.flatMap_cons, List.append_assoc, List.length_append]
    rw [head, ih tail, after_after, Nat.add_assoc]

end

end Sys2Proof.Machine

/-! PROOF. QSPLIT (44_segmenter.md R209 to R213): what each element of a record does, the fold over accepted records, and the
ranges of its outputs. -/
namespace Sys2Proof.Machine

section
variable {c : Config} {p : TimePolicy} {f : QSFields} {t xm xe ym ye v e : Int} {cnt n k : Nat} {rs : List SplitRecord}

/-! ### The time and the exponents -/

theorem savedTime_of_fits (fits : FitsS 32 t) : savedTime t = t := clamp_of_mem fits.1 fits.2

theorem tconv_of_fits (fits : FitsS 32 t) : tconv p t = .ok t := if_pos fits

theorem tconv_of_accepted (accepted : p = .fault → FitsS 32 t) : tconv p t = .ok (savedTime t) := by
  by_cases fits : FitsS 32 t
  · rw [tconv_of_fits fits, savedTime_of_fits fits]
  · cases p
    case saturate => exact if_neg fits
    case fault => exact absurd (accepted rfl) fits

theorem tconv_fault (wide : ¬ FitsS 32 t) : tconv .fault t = .error .rangeOverflow := if_neg wide

theorem checkExponent_of_range (range : 0 ≤ e ∧ e ≤ maxExp) : checkExponent e = .ok e := if_pos range

theorem checkExponent_of_not_range (outside : ¬ (0 ≤ e ∧ e ≤ maxExp)) : checkExponent e = .error .malformedInput :=
  if_neg outside

/-! ### One element -/

theorem qsplitConsume_tag_refused (fields : e ≠ 0) (empty : e ≠ 1) :
    consumeOf c .qsplit (.qs 0 f) e n = .error .malformedInput := by
  simp only [consumeOf, qsplitConsume, splitTag, if_neg fields, if_neg empty]

theorem qsplitConsume_time (accepted : c.timePolicy = .fault → FitsS 32 e) :
    consumeOf c .qsplit (.qs 1 f) e n = .ok (.qs 2 { f with t := savedTime e }, []) := by
  simp only [consumeOf, qsplitConsume, tconv_of_accepted accepted, check]

theorem qsplitConsume_time_refused (policy : c.timePolicy = .fault) (wide : ¬ FitsS 32 e) :
    consumeOf c .qsplit (.qs 1 f) e n = .error .rangeOverflow := by
  simp only [consumeOf, qsplitConsume, policy, tconv_fault wide, check]

theorem qsplitConsume_xe (range : 0 ≤ e ∧ e ≤ maxExp) :
    consumeOf c .qsplit (.qs 3 f) e n = .ok (.qs 4 { f with xe := e }, []) := by
  simp only [consumeOf, qsplitConsume, checkExponent_of_range range, check]

theorem qsplitConsume_ye (range : 0 ≤ e ∧ e ≤ maxExp) :
    consumeOf c .qsplit (.qs 5 f) e n = .ok (.qs 6 { f with ye := e }, []) := by
  simp only [consumeOf, qsplitConsume, checkExponent_of_range range, check]

theorem qsplitConsume_exponent_refused (place : cnt = 3 ∨ cnt = 5) (outside : ¬ (0 ≤ e ∧ e ≤ maxExp)) :
    consumeOf c .qsplit (.qs cnt f) e n = .error .malformedInput := by
  obtain rfl | rfl := place <;> simp only [consumeOf, qsplitConsume, checkExponent_of_not_range outside, check]

theorem foldFrom_qsplit_nil : foldFrom c .qsplit (.qs 0 f) n [] = .done [] := rfl

theorem foldFrom_qsplit_nil_of_cut (cut : cnt ≠ 0) :
    foldFrom c .qsplit (.qs cnt f) n [] = .failed .malformedInput n := by
  simp only [foldFrom, finishOf, qsplitFinish, if_pos cut]

/-! ### One record -/

/-- The register F of QSPLIT after the first k elements of a FIELDS record, its TAG counted (44_segmenter.md R212). -/
def storedFields (t xm xe ym ye : Int) : Nat → QSFields
  | 0 | 1 => qsZero
  | 2 => ⟨savedTime t, 0, 0, 0, 0⟩
  | 3 => ⟨savedTime t, xm, 0, 0, 0⟩
  | 4 => ⟨savedTime t, xm, xe, 0, 0⟩
  | 5 => ⟨savedTime t, xm, xe, ym, 0⟩
  | _ => ⟨savedTime t, xm, xe, ym, ye⟩

theorem qsplitConsume_stores (accepted : SplitRecord.Accepted c.timePolicy (.fields t xm xe ym ye v)) :
    ∀ k (lt : k < 6), consumeOf c .qsplit (.qs k (storedFields t xm xe ym ye k))
      ((recordWords (.fields t xm xe ym ye v))[k]'(Nat.lt_succ_of_lt lt)) (n + k) =
        .ok (.qs (k + 1) (storedFields t xm xe ym ye (k + 1)), [])
  | 0, _ => rfl
  | 1, _ => qsplitConsume_time accepted.2.2
  | 2, _ => rfl
  | 3, _ => qsplitConsume_xe accepted.1
  | 4, _ => rfl
  | 5, _ => qsplitConsume_ye accepted.2.1

/-- Up to six elements of an accepted FIELDS record are stored. -/
theorem foldFrom_recordWords_take (accepted : SplitRecord.Accepted c.timePolicy (.fields t xm xe ym ye v)) (le : k ≤ 6)
    (es : List Int) :
    foldFrom c .qsplit (.qs 0 qsZero) n ((recordWords (.fields t xm xe ym ye v)).take k ++ es) =
      foldFrom c .qsplit (.qs k (storedFields t xm xe ym ye k)) (n + k) es :=
  foldFrom_take (d := fun k => .qs k (storedFields t xm xe ym ye k)) (Nat.le_succ_of_le le)
    (fun k lt => qsplitConsume_stores accepted k (lt.trans_le le)) es

/-- A whole record is emitted with its last element; an EMPTY one is skipped (44_segmenter.md R211, R212). -/
theorem foldFrom_recordWords (r : SplitRecord) (accepted : r.Accepted c.timePolicy) (n : Nat) (es : List Int) :
    foldFrom c .qsplit (.qs 0 qsZero) n (recordWords r ++ es) =
      (foldFrom c .qsplit (.qs 0 qsZero) (n + (recordWords r).length) es).after (splitOutput c.roundTies r) := by
  cases r with
  | empty => exact foldFrom_ok rfl es
  | fields t xm xe ym ye v =>
    exact (foldFrom_recordWords_take accepted le_rfl (v :: es)).trans (foldFrom_ok rfl es)

theorem commandResult_qsplit_records (lenS : Word) (accepted : ∀ r ∈ rs, r.Accepted c.timePolicy) (es : List Int) :
    commandResult c .qsplit lenS (rs.flatMap recordWords ++ es) =
      (foldFrom c .qsplit (.qs 0 qsZero) (rs.flatMap recordWords).length es).after
        (rs.flatMap (splitOutput c.roundTies)) := by
  have result := foldFrom_flatMap (fun r mem => foldFrom_recordWords r (accepted r mem)) 0 es
  rwa [Nat.zero_add] at result

/-- What is refused after accepted records and the first k elements of a further one. -/
theorem commandResult_qsplit_refused (lenS : Word) (records : ∀ r ∈ rs, r.Accepted c.timePolicy)
    (accepted : SplitRecord.Accepted c.timePolicy (.fields t xm xe ym ye v)) (le : k ≤ 6) {kind : ErrKind}
    (refused : ∀ f i, consumeOf c .qsplit (.qs k f) e i = .error kind) (es : List Int) :
    commandResult c .qsplit lenS (rs.flatMap recordWords ++
      ((recordWords (.fields t xm xe ym ye v)).take k ++ e :: es)) =
        .failed kind ((rs.flatMap recordWords).length + k) := by
  rw [commandResult_qsplit_records lenS records, foldFrom_recordWords_take accepted le, foldFrom_error (refused _ _),
    after_failed]

/-- An input that ends inside an accepted FIELDS record. -/
theorem commandResult_qsplit_cut (lenS : Word) (records : ∀ r ∈ rs, r.Accepted c.timePolicy)
    (accepted : SplitRecord.Accepted c.timePolicy (.fields t xm xe ym ye v)) (positive : 1 ≤ k) (le : k ≤ 6) :
    commandResult c .qsplit lenS (rs.flatMap recordWords ++ (recordWords (.fields t xm xe ym ye v)).take k) =
      .failed .malformedInput ((rs.flatMap recordWords).length + k) := by
  have stored := foldFrom_recordWords_take (n := (rs.flatMap recordWords).length) accepted le []
  rw [List.append_nil] at stored
  rw [commandResult_qsplit_records lenS records, stored, foldFrom_qsplit_nil_of_cut (Nat.ne_of_gt positive), after_failed]

end

/-- Settles O56: nothing follows the records, and F is at its start. -/
theorem qsplitResult : Obligations.QsplitResult := by
  intro c lenS rs accepted
  have result := commandResult_qsplit_records lenS accepted []
  rwa [List.append_nil, foldFrom_qsplit_nil, after_done, List.append_nil] at result

/-- Settles O57: the elements before the refused one are the first elements of a record that is accepted. -/
theorem qsplitRejections : Obligations.QsplitRejections := by
  intro c lenS rs rest t xm xe ym ye v records before n
  have zero : (0 : Int) ≤ 0 ∧ 0 ≤ maxExp := by decide
  have zeros : SplitRecord.Accepted c.timePolicy (.fields 0 0 0 0 0 0) := ⟨zero, zero, fun _ => fitsS_zero 32⟩
  refine ⟨fun tag fields empty => ?tag, fun policy wide => ?time, fun time outside => ?xe,
    fun time lower upper outside => ?ye, fun whole k positive le => ?cut⟩
  case tag =>
    exact commandResult_qsplit_refused (k := 0) lenS records zeros (by decide)
      (fun _ _ => qsplitConsume_tag_refused fields empty) rest
  case time =>
    exact commandResult_qsplit_refused (k := 1) lenS records zeros (by decide)
      (fun _ _ => qsplitConsume_time_refused policy wide) rest
  case xe =>
    have accepted : SplitRecord.Accepted c.timePolicy (.fields t xm 0 0 0 0) := ⟨zero, zero, time⟩
    exact commandResult_qsplit_refused (k := 3) lenS records accepted (by decide)
      (fun _ _ => qsplitConsume_exponent_refused (.inl rfl) outside) rest
  case ye =>
    have accepted : SplitRecord.Accepted c.timePolicy (.fields t xm xe ym 0 0) := ⟨⟨lower, upper⟩, zero, time⟩
    exact commandResult_qsplit_refused (k := 5) lenS records accepted (by decide)
      (fun _ _ => qsplitConsume_exponent_refused (.inr rfl) outside) rest
  case cut => exact commandResult_qsplit_cut lenS records whole positive le

section
variable {c : Config} {f : QSFields} {e : Int} {cnt n : Nat} {d' : Datapath} {xs ys outs : List Int}

/-! ### The ranges of the outputs -/

/-- The interleaved elements of channel records in range (44_segmenter.md R213). -/
def IsChannelStream (xs : List Int) : Prop :=
  ∃ rs : List ChannelRecord, (∀ r ∈ rs, r.InRange) ∧ xs = rs.flatMap channelWords

theorem isChannelStream_nil : IsChannelStream [] := ⟨[], nofun, rfl⟩

theorem isChannelStream_channelWords {r : ChannelRecord} (range : r.InRange) : IsChannelStream (channelWords r) :=
  ⟨[r], List.forall_mem_singleton.mpr range, (List.append_nil _).symm⟩

theorem IsChannelStream.append (hx : IsChannelStream xs) (hy : IsChannelStream ys) : IsChannelStream (xs ++ ys) := by
  obtain ⟨as, inA, rfl⟩ := hx
  obtain ⟨bs, inB, rfl⟩ := hy
  exact ⟨as ++ bs, List.forall_mem_append.mpr ⟨inA, inB⟩, List.flatMap_append.symm⟩

/-- A T that QSPLIT has stored is in int32 (44_segmenter.md R209). -/
def TimeStored (cnt : Nat) (f : QSFields) : Prop := 2 ≤ cnt → FitsS 32 f.t

/-- An element is stored, or completes a record whose four elements are in range. -/
theorem qsplitConsume_ok (time : TimeStored cnt f) (h : consumeOf c .qsplit (.qs cnt f) e n = .ok (d', outs)) :
    ∃ cnt' f', d' = .qs cnt' f' ∧ TimeStored cnt' f' ∧ IsChannelStream outs := by
  simp only [consumeOf, qsplitConsume] at h
  split at h
  case h_1 =>
    unfold splitTag at h
    split_ifs at h <;> cases h
    all_goals exact ⟨_, _, rfl, by simp [TimeStored], isChannelStream_nil⟩
  case h_2 =>
    obtain ⟨t, saved, h⟩ := check_eq_ok h
    cases h
    exact ⟨_, _, rfl, fun _ => tconv_ok saved, isChannelStream_nil⟩
  case h_3 | h_5 =>
    cases h
    exact ⟨_, _, rfl, fun _ => time (by decide), isChannelStream_nil⟩
  case h_4 | h_6 =>
    obtain ⟨exponent, -, h⟩ := check_eq_ok h
    cases h
    exact ⟨_, _, rfl, fun _ => time (by decide), isChannelStream_nil⟩
  case h_7 notTag notTime _ _ _ _ =>
    cases h
    have state : (byte e : Int) ≤ 255 := Int.ofNat_le.mpr (Nat.le_of_lt_succ (byte_lt e))
    have range : ChannelRecord.InRange ⟨f.t, qpos c.roundTies f.xm f.xe, qpos c.roundTies f.ym f.ye, byte e⟩ :=
      ⟨time ((Nat.two_le_iff _).mpr ⟨notTag, notTime⟩), qpos_fits .., qpos_fits .., Int.natCast_nonneg _, state⟩
    exact ⟨_, _, rfl, by simp [TimeStored], isChannelStream_channelWords range⟩

theorem isChannelStream_of_foldFrom_done {es : List Int} (time : TimeStored cnt f)
    (h : foldFrom c .qsplit (.qs cnt f) n es = .done xs) : IsChannelStream xs := by
  induction es generalizing cnt f n xs with
  | nil =>
    simp only [foldFrom, finishOf, qsplitFinish] at h
    split_ifs at h
    cases h
    exact isChannelStream_nil
  | cons e es ih =>
    cases reply : consumeOf c .qsplit (.qs cnt f) e n with
    | error k => exact absurd h (foldFrom_ne_done_of_error reply es xs)
    | mismatch => simp only [foldFrom, reply] at h; cases h
    | ok answered =>
      obtain ⟨d', outs⟩ := answered
      obtain ⟨cnt', f', rfl, time', stream⟩ := qsplitConsume_ok time reply
      rw [foldFrom_ok reply] at h
      obtain ⟨later, rest, rfl⟩ := after_eq_done h
      exact stream.append (ih time' rest)

end

/-- Settles O58: at the start of a run no T is stored, and every element keeps what is stored and emitted in range. -/
theorem qsplitOutputsLieInTheChannelRanges : Obligations.QsplitOutputsLieInTheChannelRanges := by
  intro c lenS es xs h
  exact isChannelStream_of_foldFrom_done (f := qsZero) (by simp [TimeStored]) h

end Sys2Proof.Machine

/-! PROOF. QJOIN (44_segmenter.md R214, R218): what each element of a channel record does, the fold over records in range,
and QSPLIT on its output (R220). -/
namespace Sys2Proof.Machine

section
variable {c : Config} {f : QJFields} {t x y v e : Int} {cnt n k : Nat} {r : ChannelRecord} {rs : List ChannelRecord}

/-! ### One element -/

theorem checkSigned_of_not_fits {w : Nat} (wide : ¬ FitsS w e) : checkSigned w e = .error .rangeOverflow := if_neg wide

theorem checkState_of_mem (range : 0 ≤ e ∧ e ≤ 255) : checkState e = .ok e.toNat := if_pos range

theorem checkState_of_not_mem (outside : ¬ (0 ≤ e ∧ e ≤ 255)) : checkState e = .error .rangeOverflow := if_neg outside

theorem qjoinConsume_t (fits : FitsS 32 e) :
    consumeOf c .qjoin (.qj 0 f) e n = .ok (.qj 1 { f with t := e }, []) := by
  simp only [consumeOf, qjoinConsume, checkSigned_of_fits fits, check]

theorem qjoinConsume_t_refused (wide : ¬ FitsS 32 e) : consumeOf c .qjoin (.qj 0 f) e n = .error .rangeOverflow := by
  simp only [consumeOf, qjoinConsume, checkSigned_of_not_fits wide, check]

theorem qjoinConsume_x (fits : FitsS 16 e) :
    consumeOf c .qjoin (.qj 1 f) e n = .ok (.qj 2 { f with x := e }, []) := by
  simp only [consumeOf, qjoinConsume, checkSigned_of_fits fits, check]

theorem qjoinConsume_y (fits : FitsS 16 e) :
    consumeOf c .qjoin (.qj 2 f) e n = .ok (.qj 3 { f with y := e }, []) := by
  simp only [consumeOf, qjoinConsume, checkSigned_of_fits fits, check]

theorem qjoinConsume_position_refused (place : cnt = 1 ∨ cnt = 2) (wide : ¬ FitsS 16 e) :
    consumeOf c .qjoin (.qj cnt f) e n = .error .rangeOverflow := by
  obtain rfl | rfl := place <;> simp only [consumeOf, qjoinConsume, checkSigned_of_not_fits wide, check]

theorem qjoinConsume_state (range : 0 ≤ e ∧ e ≤ 255) :
    consumeOf c .qjoin (.qj 3 f) e n = .ok (.qj 0 qjZero, [0, f.t, f.x * 625, 4, f.y * 625, 4, e]) := by
  simp only [consumeOf, qjoinConsume, checkState_of_mem range, check, joinRecord, Int.toNat_of_nonneg range.1]

theorem qjoinConsume_state_refused (outside : ¬ (0 ≤ e ∧ e ≤ 255)) :
    consumeOf c .qjoin (.qj 3 f) e n = .error .rangeOverflow := by
  simp only [consumeOf, qjoinConsume, checkState_of_not_mem outside, check]

theorem foldFrom_qjoin_nil : foldFrom c .qjoin (.qj 0 f) n [] = .done [] := rfl

theorem foldFrom_qjoin_nil_of_cut (cut : cnt ≠ 0) :
    foldFrom c .qjoin (.qj cnt f) n [] = .failed .channelLengthMismatch n := by
  simp only [foldFrom, finishOf, qjoinFinish, if_pos cut]

/-! ### One record -/

/-- The register F of QJOIN after the first k elements of a channel record (44_segmenter.md R218). -/
def storedChannels (r : ChannelRecord) : Nat → QJFields
  | 0 => qjZero
  | 1 => ⟨r.t, 0, 0⟩
  | 2 => ⟨r.t, r.x, 0⟩
  | _ => ⟨r.t, r.x, r.y⟩

/-- The record QJOIN emits for a channel record, its positions dequantized (30_encoding.md R111; 44_segmenter.md R214). -/
def joinedRecord (r : ChannelRecord) : SplitRecord := .fields r.t (r.x * 625) 4 (r.y * 625) 4 r.s

theorem qjoinConsume_stores (range : r.InRange) :
    ∀ k (lt : k < 3), consumeOf c .qjoin (.qj k (storedChannels r k))
      ((channelWords r)[k]'(Nat.lt_succ_of_lt lt)) (n + k) =
        .ok (.qj (k + 1) (storedChannels r (k + 1)), [])
  | 0, _ => qjoinConsume_t range.1
  | 1, _ => qjoinConsume_x range.2.1
  | 2, _ => qjoinConsume_y range.2.2.1

/-- Up to three elements of a channel record in range are stored. -/
theorem foldFrom_channelWords_take (range : r.InRange) (le : k ≤ 3) (es : List Int) :
    foldFrom c .qjoin (.qj 0 qjZero) n ((channelWords r).take k ++ es) =
      foldFrom c .qjoin (.qj k (storedChannels r k)) (n + k) es :=
  foldFrom_take (d := fun k => .qj k (storedChannels r k)) (Nat.le_succ_of_le le)
    (fun k lt => qjoinConsume_stores range k (lt.trans_le le)) es

theorem foldFrom_channelWords (r : ChannelRecord) (range : r.InRange) (n : Nat) (es : List Int) :
    foldFrom c .qjoin (.qj 0 qjZero) n (channelWords r ++ es) =
      (foldFrom c .qjoin (.qj 0 qjZero) (n + (channelWords r).length) es).after (recordWords (joinedRecord r)) :=
  (foldFrom_channelWords_take range le_rfl (r.s :: es)).trans (foldFrom_ok (qjoinConsume_state range.2.2.2) es)

/-! ### The fold over records -/

theorem length_flatMap_channelWords (rs : List ChannelRecord) : (rs.flatMap channelWords).length = 4 * rs.length := by
  induction rs with
  | nil => rfl
  | cons r rs ih => rw [List.flatMap_cons, List.length_append, ih, List.length_cons, Nat.mul_succ, Nat.add_comm]; rfl

theorem commandResult_qjoin_records (c : Config) (lenS : Word) (range : ∀ r ∈ rs, r.InRange) (es : List Int) :
    commandResult c .qjoin lenS (rs.flatMap channelWords ++ es) =
      (foldFrom c .qjoin (.qj 0 qjZero) (4 * rs.length) es).after (rs.flatMap fun r => recordWords (joinedRecord r)) := by
  have result := foldFrom_flatMap (c := c) (fun r mem => foldFrom_channelWords r (range r mem)) 0 es
  rwa [Nat.zero_add, length_flatMap_channelWords] at result

theorem commandResult_qjoin_of_range (c : Config) (lenS : Word) (range : ∀ r ∈ rs, r.InRange) :
    commandResult c .qjoin lenS (rs.flatMap channelWords) = .done (rs.flatMap fun r => recordWords (joinedRecord r)) := by
  have result := commandResult_qjoin_records c lenS range []
  rwa [List.append_nil, foldFrom_qjoin_nil, after_done, List.append_nil] at result

/-- What is refused after records in range and the first k elements of a further one. -/
theorem commandResult_qjoin_refused (c : Config) (lenS : Word) (ranges : ∀ r ∈ rs, r.InRange) (range : r.InRange)
    (le : k ≤ 3) (refused : ∀ f i, consumeOf c .qjoin (.qj k f) e i = .error .rangeOverflow) (es : List Int) :
    commandResult c .qjoin lenS (rs.flatMap channelWords ++ ((channelWords r).take k ++ e :: es)) =
      .failed .rangeOverflow (4 * rs.length + k) := by
  rw [commandResult_qjoin_records c lenS ranges, foldFrom_channelWords_take range le, foldFrom_error (refused _ _),
    after_failed]

/-- An input that ends inside a record in range. -/
theorem commandResult_qjoin_cut (c : Config) (lenS : Word) (ranges : ∀ r ∈ rs, r.InRange) (range : r.InRange)
    (positive : 1 ≤ k) (le : k ≤ 3) :
    commandResult c .qjoin lenS (rs.flatMap channelWords ++ (channelWords r).take k) =
      .failed .channelLengthMismatch (4 * rs.length + k) := by
  have stored := foldFrom_channelWords_take (c := c) (n := 4 * rs.length) range le []
  rw [List.append_nil] at stored
  rw [commandResult_qjoin_records c lenS ranges, stored, foldFrom_qjoin_nil_of_cut (Nat.ne_of_gt positive), after_failed]

end

/-- Settles O59: the elements before the refused one are the first elements of a record in range. -/
theorem qjoinResult : Obligations.QjoinResult := by
  intro c lenS rs rest t x y v ranges before
  have position := fitsS_zero 16
  have state : (0 : Int) ≤ 0 ∧ (0 : Int) ≤ 255 := by decide
  refine ⟨commandResult_qjoin_of_range c lenS ranges, fun range k positive le => ?cut, fun wide => ?t,
    fun ft wide => ?x, fun ft fx wide => ?y, fun ft fx fy outside => ?s⟩
  case cut => exact commandResult_qjoin_cut c lenS ranges range positive le
  case t =>
    have range : ChannelRecord.InRange ⟨0, 0, 0, 0⟩ := ⟨fitsS_zero 32, position, position, state⟩
    exact commandResult_qjoin_refused (k := 0) c lenS ranges range (by decide) (fun _ _ => qjoinConsume_t_refused wide) rest
  case x =>
    have range : ChannelRecord.InRange ⟨t, 0, 0, 0⟩ := ⟨ft, position, position, state⟩
    exact commandResult_qjoin_refused (k := 1) c lenS ranges range (by decide)
      (fun _ _ => qjoinConsume_position_refused (.inl rfl) wide) rest
  case y =>
    have range : ChannelRecord.InRange ⟨t, x, 0, 0⟩ := ⟨ft, fx, position, state⟩
    exact commandResult_qjoin_refused (k := 2) c lenS ranges range (by decide)
      (fun _ _ => qjoinConsume_position_refused (.inr rfl) wide) rest
  case s =>
    have range : ChannelRecord.InRange ⟨t, x, y, 0⟩ := ⟨ft, fx, fy, state⟩
    exact commandResult_qjoin_refused (k := 3) c lenS ranges range (by decide)
      (fun _ _ => qjoinConsume_state_refused outside) rest

section
variable {c : Config} {r : ChannelRecord} {rs : List ChannelRecord}

/-! ### QSPLIT on what QJOIN emits -/

theorem joinedRecord_accepted (p : TimePolicy) (range : r.InRange) : (joinedRecord r).Accepted p :=
  ⟨by decide, by decide, fun _ => range.1⟩

theorem splitOutput_joinedRecord (ties : RoundTies) (range : r.InRange) :
    splitOutput ties (joinedRecord r) = channelWords r := by
  obtain ⟨time, x, y, lower, upper⟩ := range
  have state : (byte r.s : Int) = r.s := by unfold byte; omega
  simp only [joinedRecord, splitOutput, savedTime_of_fits time, qpos_dequantized ties x, qpos_dequantized ties y, state,
    channelWords]

/-- R220, from the channels to the channels. -/
theorem commandResult_qsplit_joined (c : Config) (lenS : Word) (ranges : ∀ r ∈ rs, r.InRange) :
    commandResult c .qsplit lenS (rs.flatMap fun r => recordWords (joinedRecord r)) = .done (rs.flatMap channelWords) := by
  have accepted : ∀ r ∈ rs.map joinedRecord, r.Accepted c.timePolicy :=
    List.forall_mem_map.mpr fun r mem => joinedRecord_accepted c.timePolicy (ranges r mem)
  have split := qsplitResult c lenS (rs.map joinedRecord) accepted
  rw [List.flatMap_map, List.flatMap_map] at split
  rw [split, List.flatMap_congr fun r mem => splitOutput_joinedRecord c.roundTies (ranges r mem)]

end

/-- Settles O60: what QSPLIT emits is channel records in range, so the first half applies to it. -/
theorem splitUndoesJoin : Obligations.SplitUndoesJoin := by
  intro c lenS
  have roundTrip (rs : List ChannelRecord) (ranges : ∀ r ∈ rs, r.InRange) :
      ∃ xs, commandResult c .qjoin lenS (rs.flatMap channelWords) = .done xs ∧
        commandResult c .qsplit lenS xs = .done (rs.flatMap channelWords) :=
    ⟨_, commandResult_qjoin_of_range c lenS ranges, commandResult_qsplit_joined c lenS ranges⟩
  refine ⟨roundTrip, fun es ys h => ?_⟩
  obtain ⟨rs, ranges, rfl⟩ := qsplitOutputsLieInTheChannelRanges c lenS es ys h
  exact roundTrip rs ranges

end Sys2Proof.Machine

/-! PROOF. The errors of the block (60_exceptions.md): their codes, what each access does in ERR, and the two ways out of it. -/
namespace Sys2Proof.Machine

section
variable {s t : State} {a : Access} {rest : List Turn}

/-! ### The ways out of ERR (60_exceptions.md R245) -/

/-- The two turns of `ClearIsNext` are the CMD word 0 and reset, whatever access carries the word. -/
theorem eq_clear_or_hardReset_of_clearIsNext (next : ClearIsNext s) (h : step s = .next t) :
    ∃ rest, t = clear { s with agenda := rest } ∨ t = hardReset { s with agenda := rest } := by
  obtain ⟨rest, agenda | ⟨a, agenda, write, offset, data⟩⟩ := next
  · exact ⟨rest, .inr (Host.Outcome.next.inj ((step_of_reset agenda).symm.trans h)).symm⟩
  · exact ⟨rest, .inl (eq_clear_of_hostAccess write offset data ((step_of_access agenda).symm.trans h))⟩

theorem clearIsNext_access_iff (agenda : s.agenda = .access a :: rest) :
    ClearIsNext s ↔ a.dir = .write ∧ a.offset = 0x00 ∧ a.data = 0 := by
  simp [ClearIsNext, agenda]

/-! ### Accesses in ERR (60_exceptions.md R243) -/

theorem writeCmd_err {w : Word} (nonzero : w ≠ 0) (err : s.phase = .err) : writeCmd w s = .next s := by
  rcases illegal_or_encode w with illegal | ⟨i, rfl⟩
  · rw [writeCmd_of_no_command s illegal, if_pos err]
  · have command : i ≠ .clr := by rintro rfl; exact nonzero (by decide)
    rw [writeCmd_encode, exec_of_err command err]

/-- An access is the turn of a step, so what a step keeps in ERR an access keeps. -/
theorem hostAccess_keeps_err (err : s.phase = .err) (notClear : ¬ (a.dir = .write ∧ a.offset = 0x00 ∧ a.data = 0))
    (h : hostAccess a s = .next t) : t.phase = .err ∧ t.errcode = s.errcode ∧ t.errIndex = s.errIndex := by
  have keeps := step_keeps_err (s := { s with agenda := .access a :: s.agenda }) (t := t) err
  rw [clearIsNext_access_iff rfl, step_of_access rfl] at keeps
  exact keeps notClear h

end

/-! ### The codes (60_exceptions.md R230) -/

theorem errField_lt (e : Option ErrKind) : (errField e).toNat < 8 := by
  cases e with
  | none => decide
  | some k => cases k <;> decide

/-- Settles O22: a clearing turn is CLR or reset, whose results show every cleared component; no other step leaves ERR. -/
theorem errIsLeftOnlyByClrOrReset : Obligations.ErrIsLeftOnlyByClrOrReset := by
  intro s t err h
  refine ⟨fun next => ?leaves, fun notClear => step_keeps_err err notClear h⟩
  case leaves =>
    obtain ⟨rest, rfl | rfl⟩ := eq_clear_or_hardReset_of_clearIsNext next h
    · exact ⟨rfl, rfl, rfl, rfl, rfl, rfl⟩
    · exact ⟨rfl, rfl, rfl, rfl, rfl, rfl⟩

/-- Settles O20: the codes are read off the table, and error entry is the update it names. -/
theorem errorCodesAndErrorEntry : Obligations.ErrorCodesAndErrorEntry :=
  ⟨⟨rfl, rfl, rfl, rfl, rfl, rfl, rfl, rfl, errField_lt⟩, fun _ _ _ => rfl⟩

/-- Settles O21, by the ERR case of each access; only the OUT_DATA read needs the invariant, by which OUTFIFO is empty. -/
theorem behaviourInErr : Obligations.BehaviourInErr := by
  intro s inv err
  obtain ⟨writeLen, readRegister⟩ := lenWriteAndRegisterReads s
  refine ⟨?engine, ?clr, fun w nonzero => ?cmd, fun w => ?inData, fun w => ?inEnd, ?outData, writeLen, readRegister,
    fun a t notClear h => hostAccess_keeps_err err notClear h⟩
  case engine => exact engineTurn_of_waits (engineWaits_of_phase (by simp [err]))
  case clr => rw [hostAccess_write_cmd, writeCmd_zero]
  case cmd => rw [hostAccess_write_cmd, writeCmd_err nonzero err]
  case inData => rw [hostAccess_write_inData, writeInData_err w err]
  case inEnd => rw [hostAccess_write_inEnd, writeInEnd_err err]
  case outData =>
    obtain ⟨-, -, -, empty, -⟩ := inv.error err
    rw [hostAccess_read_outData, readOutData_err empty err]

end Sys2Proof.Machine

/-! PROOF. Reset and CLR (70_reset_and_hazards.md R260, R261), and what a command keeps of earlier ones (R270). -/
namespace Sys2Proof.Machine

/-- R261: what CLR does is what reset does, but for LEN. -/
theorem clear_eq_hardReset (s : State) : clear s = { hardReset s with len := s.len } := rfl

/-- STATUS does not show LEN, so reset leaves in it what CLR leaves. -/
theorem statusWord_hardReset (s : State) : statusWord (hardReset s) = 0 := statusWord_clear s

/-- Settles O23: the reset turn is `hardReset`, whose components are the reset values. -/
theorem clrIsResetButForLen : Obligations.ClrIsResetButForLen := by
  intro s
  refine ⟨clear s, hardReset s, rfl, step_of_reset rfl, clear_len s, clear_eq_hardReset s, ?_⟩
  simp [statusWord_hardReset]

/-- Settles O12: a start writes every component of the block but LEN, and it reads nothing but LEN. -/
theorem startForgetsEarlierCommands : Obligations.StartForgetsEarlierCommands := by
  intro i s t command hs ht len cfg agenda round reads
  obtain ⟨d, record⟩ := initOf_eq_some command s.len
  refine ⟨_, exec_of_startable hs record, ?_⟩
  rw [exec_of_startable ht (len ▸ record), len, cfg, agenda, round, reads]

end Sys2Proof.Machine

/-! PROOF. How many outputs a command has for its input (70_reset_and_hazards.md R271, R272): from the closed form of the command
where it has one, else from a count kept along the fold. -/
namespace Sys2Proof.Machine

section
variable {c : Config} {i : Instr} {lenS : Word} {d : Datapath} {n m : Nat} {e : Int} {es xs : List Int}

/-! ### Folds that succeed -/

theorem foldFrom_nil_eq_done_iff : foldFrom c i d n [] = .done xs ↔ finishOf i d n = .ok xs := by
  rw [foldFrom]
  split <;> simp [*]

theorem foldFrom_cons_eq_done (h : foldFrom c i d n (e :: es) = .done xs) :
    ∃ d' outs rest, consumeOf c i d e n = .ok (d', outs) ∧ foldFrom c i d' (n + 1) es = .done rest ∧ xs = outs ++ rest := by
  cases reply : consumeOf c i d e n with
  | mismatch => simp only [foldFrom, reply] at h; cases h
  | error k => exact absurd h (foldFrom_ne_done_of_error reply es xs)
  | ok answered =>
    obtain ⟨d', outs⟩ := answered
    rw [foldFrom_ok reply] at h
    obtain ⟨rest, onward, rfl⟩ := after_eq_done h
    exact ⟨d', outs, rest, rfl, onward, rfl⟩

/-- A count `P` of the elements consumed and the outputs emitted, for each record, that every element keeps and that gives `Q`
at the end of the input. -/
theorem counts_of_foldFrom_done {P : Datapath → Nat → Nat → Prop} {Q : Nat → Nat → Prop}
    (keeps : ∀ {d d' n m e outs}, P d n m → consumeOf c i d e n = .ok (d', outs) → P d' (n + 1) (m + outs.length))
    (ends : ∀ {d n m outs}, P d n m → finishOf i d n = .ok outs → Q n (m + outs.length))
    (counted : P d n m) (h : foldFrom c i d n es = .done xs) : Q (n + es.length) (m + xs.length) := by
  induction es generalizing d n m xs with
  | nil => exact ends counted (foldFrom_nil_eq_done_iff.mp h)
  | cons e es ih =>
    obtain ⟨d', outs, rest, consumed, onward, rfl⟩ := foldFrom_cons_eq_done h
    have later := ih (keeps counted consumed) onward
    rwa [Nat.add_assoc, Nat.add_comm 1, Nat.add_assoc, ← List.length_append] at later

/-! ### Varints and coded differences -/

theorem length_varintStream_le (w : Nat) (vs : List Int) :
    (varintStream w vs).length ≤ (payloadBytes w + 1) * vs.length := by
  induction vs with
  | nil => exact Nat.zero_le _
  | cons v vs ih =>
    rw [varintStream_cons, List.length_append, List.length_cons, Nat.mul_succ, Nat.add_comm]
    exact Nat.add_le_add ih (vcode_length_le w v)

theorem length_decodeStream_le (w : Nat) (r : VDec) (bs : List Nat) : (decodeStream w r bs).2.length ≤ bs.length := by
  induction bs generalizing r with
  | nil => exact le_rfl
  | cons b bs ih =>
    rw [decodeStream, List.length_append, List.length_cons, Nat.add_comm]
    exact Nat.add_le_add (ih _) (decoded_length_le _)

theorem length_of_vpack_done {w : Nat} (row : (w, i) ∈ [(16, Instr.vpack16), (32, .vpack32)])
    (h : commandResult c i lenS es = .done xs) : xs.length ≤ (payloadBytes w + 1) * es.length := by
  rw [vpackResult c lenS w i es row] at h
  split_ifs at h
  cases h
  rw [naturals_length]
  exact length_varintStream_le w es

theorem length_of_vunpack_done {w : Nat} (row : (w, i) ∈ [(16, Instr.vunpack16), (32, .vunpack32)])
    (h : commandResult c i lenS es = .done xs) : xs.length ≤ es.length := by
  rw [vunpackResult c lenS w i es row] at h
  split_ifs at h
  cases h
  exact (length_decodeStream_le w vdecInit (es.map byte)).trans_eq (List.length_map byte)

theorem length_of_dpack_done (h : commandResult c .dpack lenS es = .done xs) : xs.length ≤ 3 * es.length := by
  have nonempty : es ≠ [] := by rintro rfl; cases h
  rw [commandResult_dpack c lenS nonempty] at h
  split_ifs at h
  cases h
  have codes := length_varintStream_le 16 ((differences 0 es).map codedDifference)
  rw [List.length_map, differences_length] at codes
  exact (naturals_length _).trans_le codes

theorem length_of_dunpackConsume {d' : Datapath} {outs : List Int} (h : consumeOf c .dunpack d e n = .ok (d', outs)) :
    outs.length ≤ 1 := by
  simp only [consumeOf, dunpackConsume] at h
  split at h
  next =>
    obtain ⟨b, -, h⟩ := check_eq_ok h
    split at h
    next => cases h; exact Nat.zero_le 1
    next =>
      obtain ⟨v, -, h⟩ := check_eq_ok h
      cases h
      exact le_rfl
  next => cases h

theorem eq_nil_of_dunpackFinish {outs : List Int} (h : finishOf .dunpack d n = .ok outs) : outs = [] := by
  simp only [finishOf, dunpackFinish] at h
  split at h
  next => exact (atCodeBoundary_ok h).2
  next => cases h

theorem length_of_dunpack_done (h : commandResult c .dunpack lenS es = .done xs) : xs.length ≤ es.length := by
  have counts := counts_of_foldFrom_done (P := fun _ n m => m ≤ n) (Q := fun n m => m ≤ n)
    (fun few consumed => Nat.add_le_add few (length_of_dunpackConsume consumed))
    (fun few finished => by rwa [eq_nil_of_dunpackFinish finished]) le_rfl h
  rwa [Nat.zero_add, Nat.zero_add] at counts

/-! ### Run-length triples -/

theorem length_triplesOf_le (zeros : Nat) (bs : List (Nat × Nat)) : (triplesOf zeros bs).length ≤ bs.length := by
  induction bs generalizing zeros with
  | nil => exact le_rfl
  | cons b bs ih =>
    rw [triplesOf]
    split_ifs
    · exact Nat.le_succ_of_le (ih _)
    · exact Nat.succ_le_succ (ih _)

theorem length_blocks_le (vs : List Nat) : (blocks vs).length ≤ vs.length := by
  induction vs with
  | nil => exact le_rfl
  | cons v vs ih =>
    rw [blocks]
    split
    next found =>
      rw [found] at ih
      split_ifs
      · exact Nat.le_succ_of_le ih
      · exact Nat.succ_le_succ ih
    next => exact Nat.succ_le_succ (Nat.zero_le _)

theorem length_flatMap_tripleWords (ts : List Triple) : (ts.flatMap tripleWords).length = 3 * ts.length := by
  induction ts with
  | nil => rfl
  | cons t ts ih => rw [List.flatMap_cons, List.length_append, ih, List.length_cons, Nat.mul_succ, Nat.add_comm]; rfl

theorem length_of_rleenc_done (h : commandResult c .rleenc lenS es = .done xs) : xs.length ≤ 3 * es.length := by
  obtain ⟨whole, rfl, -⟩ := rleenc_done h
  rw [length_flatMap_tripleWords, ← whole]
  exact Nat.mul_le_mul_left 3 ((length_triplesOf_le 0 _).trans (length_blocks_le _))

/-! ### Records -/

/-- QSPLIT emits four elements for seven: the `cnt` elements of the record being read are not paid out yet. -/
def SplitCount (d : Datapath) (n m : Nat) : Prop := ∃ cnt f, d = .qs cnt f ∧ 7 * m + 4 * cnt ≤ 4 * n

theorem SplitCount.consume {d' : Datapath} {outs : List Int} (counted : SplitCount d n m)
    (h : consumeOf c .qsplit d e n = .ok (d', outs)) : SplitCount d' (n + 1) (m + outs.length) := by
  obtain ⟨cnt, f, rfl, paid⟩ := counted
  simp only [consumeOf, qsplitConsume] at h
  split at h
  case h_1 =>
    unfold splitTag at h
    split_ifs at h <;> cases h
    all_goals exact ⟨_, _, rfl, by rw [List.length_nil]; omega⟩
  case h_2 | h_4 | h_6 =>
    obtain ⟨v, -, h⟩ := check_eq_ok h
    cases h
    exact ⟨_, _, rfl, by rw [List.length_nil]; omega⟩
  case h_3 | h_5 => cases h; exact ⟨_, _, rfl, by rw [List.length_nil]; omega⟩
  case h_7 n0 n1 n2 n3 n4 n5 =>
    cases h
    have full : 6 ≤ cnt := by simp only [imp_false] at n0 n1 n2 n3 n4 n5; omega
    exact ⟨_, _, rfl, by simp only [List.length_cons, List.length_nil]; omega⟩

theorem SplitCount.finish {outs : List Int} (counted : SplitCount d n m) (h : finishOf .qsplit d n = .ok outs) :
    7 * (m + outs.length) ≤ 4 * n := by
  obtain ⟨cnt, f, rfl, paid⟩ := counted
  simp only [finishOf, qsplitFinish] at h
  split_ifs at h
  cases h
  rw [List.length_nil]
  omega

theorem length_of_qsplit_done (h : commandResult c .qsplit lenS es = .done xs) : 7 * xs.length ≤ 4 * es.length := by
  have start : SplitCount (.qs 0 qsZero) 0 0 := ⟨_, _, rfl, le_rfl⟩
  have counts := counts_of_foldFrom_done (Q := fun n m => 7 * m ≤ 4 * n) SplitCount.consume SplitCount.finish start h
  rwa [Nat.zero_add, Nat.zero_add] at counts

/-- QJOIN emits seven elements for four, and every record it reads has all its elements. -/
def JoinCount (d : Datapath) (n m : Nat) : Prop := ∃ cnt f, d = .qj cnt f ∧ cnt ≤ 3 ∧ 4 * m + 7 * cnt = 7 * n

theorem JoinCount.consume {d' : Datapath} {outs : List Int} (counted : JoinCount d n m)
    (h : consumeOf c .qjoin d e n = .ok (d', outs)) : JoinCount d' (n + 1) (m + outs.length) := by
  obtain ⟨cnt, f, rfl, inside, paid⟩ := counted
  simp only [consumeOf, qjoinConsume] at h
  split at h
  all_goals
    obtain ⟨v, -, h⟩ := check_eq_ok h
    cases h
  case h_4 n0 n1 n2 =>
    have full : cnt = 3 := by simp only [imp_false] at n0 n1 n2; omega
    exact ⟨_, _, rfl, Nat.zero_le _, by simp only [joinRecord, List.length_cons, List.length_nil]; omega⟩
  all_goals exact ⟨_, _, rfl, by decide, by rw [List.length_nil]; omega⟩

theorem JoinCount.finish {outs : List Int} (counted : JoinCount d n m) (h : finishOf .qjoin d n = .ok outs) :
    4 * (m + outs.length) = 7 * n := by
  obtain ⟨cnt, f, rfl, -, paid⟩ := counted
  simp only [finishOf, qjoinFinish] at h
  split_ifs at h
  cases h
  rw [List.length_nil]
  omega

theorem length_of_qjoin_done (h : commandResult c .qjoin lenS es = .done xs) : 4 * xs.length = 7 * es.length := by
  have start : JoinCount (.qj 0 qjZero) 0 0 := ⟨_, _, rfl, Nat.zero_le _, rfl⟩
  have counts := counts_of_foldFrom_done (Q := fun n m => 4 * m = 7 * n) JoinCount.consume JoinCount.finish start h
  rwa [Nat.zero_add, Nat.zero_add] at counts

end

/-- Settles O39, one command after the other. -/
theorem outputCountsAreBounded : Obligations.OutputCountsAreBounded := fun c lenS es xs =>
  ⟨length_of_vpack_done (w := 16) (by decide), length_of_vpack_done (w := 32) (by decide),
    length_of_vunpack_done (w := 16) (by decide), length_of_vunpack_done (w := 32) (by decide), length_of_dpack_done,
    length_of_dunpack_done, length_of_rleenc_done, (rledecIsTheClosedForm c lenS es xs).2, length_of_qsplit_done,
    length_of_qjoin_done⟩

end Sys2Proof.Machine

/-! PROOF. A whole command without a wait (70_reset_and_hazards.md R264, R271): the host writes its input, then the engine takes
one step for each element, one for each output, one to finish and one to complete. -/
namespace Sys2Proof.Machine

/-! ### Turns taken in RUN -/

/-- The turn takes s to t, whatever turns come after it. -/
def Takes (turn : Turn) (s t : State) : Prop :=
  ∀ rest, step { s with agenda := turn :: rest } = .next { t with agenda := rest }

/-- The turns take s to t, and PHASE is RUN at each of them. -/
inductive RunsThrough : List Turn → State → State → Prop
  | nil (s : State) : RunsThrough [] s s
  | cons {turn : Turn} {turns : List Turn} {s u t : State} (run : s.phase = .run) (first : Takes turn s u)
      (onward : RunsThrough turns u t) : RunsThrough (turn :: turns) s t

section
variable {turn : Turn} {turns turns' : List Turn} {s t u : State} {a : Access} {k : Nat}

theorem takes_engine (h : ∀ rest, engineTurn { s with agenda := rest } = .next { t with agenda := rest }) :
    Takes .engine s t := fun rest => (step_of_engine rfl).trans (h rest)

theorem takes_access (h : ∀ rest, hostAccess a { s with agenda := rest } = .next { t with agenda := rest }) :
    Takes (.access a) s t := fun rest => (step_of_access rfl).trans (h rest)

theorem RunsThrough.append (first : RunsThrough turns s u) (second : RunsThrough turns' u t) :
    RunsThrough (turns ++ turns') s t := by
  induction first with
  | nil => exact second
  | cons run first _ ih => exact .cons run first (ih second)

theorem RunsThrough.runSteps_eq (runs : RunsThrough turns s t) :
    runSteps turns.length { s with agenda := turns } = .next { t with agenda := [] } := by
  induction runs with
  | nil => rfl
  | cons _ first _ ih => exact (runSteps_succ_of_step (first _) _).trans ih

theorem RunsThrough.phase_of_lt (runs : RunsThrough turns s t) (before : k < turns.length)
    (h : runSteps k { s with agenda := turns } = .next u) : u.phase = .run := by
  induction runs generalizing k with
  | nil => exact absurd before (Nat.not_lt_zero k)
  | cons run first _ ih =>
    cases k with
    | zero => cases (runSteps_zero _).symm.trans h; exact run
    | succ k => exact ih (Nat.lt_of_succ_lt_succ before) ((runSteps_succ_of_step (first _) k).symm.trans h)

/-! ### The host writes the input -/

theorem takes_inData (w : Word) (run : s.phase = .run) (notEnded : s.endFlag = false)
    (room : s.inFifo.length < s.cfg.inDepth) :
    Takes (.access (.write64 0x18 w)) s { s with inFifo := s.inFifo ++ [w] } :=
  takes_access fun rest => (hostAccess_write_inData w _).trans <|
    congrArg _ (writeInData_accepted (s := { s with agenda := rest }) w run notEnded room.ne)

theorem takes_inEnd (run : s.phase = .run) (notEnded : s.endFlag = false) :
    Takes (.access endAccess) s { s with endFlag := true } :=
  takes_access fun rest => (hostAccess_write_inEnd 0 _).trans <|
    congrArg _ (writeInEnd_accepted (s := { s with agenda := rest }) run notEnded)

/-- An input that fits INFIFO is written in one go. -/
theorem runsThrough_input (ws : List Word) (run : s.phase = .run) (notEnded : s.endFlag = false)
    (room : s.inFifo.length + ws.length ≤ s.cfg.inDepth) :
    RunsThrough (ws.map fun w => .access (.write64 0x18 w)) s { s with inFifo := s.inFifo ++ ws } := by
  induction ws generalizing s with
  | nil => rw [List.append_nil]; exact .nil s
  | cons w ws ih =>
    rw [List.length_cons] at room
    have room' : (s.inFifo ++ [w]).length + ws.length ≤ s.cfg.inDepth := by
      rw [List.length_append, List.length_singleton]; omega
    have onward := ih (s := { s with inFifo := s.inFifo ++ [w] }) run notEnded room'
    rw [List.append_assoc, List.singleton_append] at onward
    exact .cons run (takes_inData w run notEnded (by omega)) onward

/-! ### The engine delivers outputs (40_engine.md R130) -/

/-- The state after PENDING, which is ws, has been moved into OUTFIFO. -/
def State.delivered (ws : List Word) (s : State) : State :=
  { s with outFifo := s.outFifo ++ ws, pending := [], outCount := s.outCount + BitVec.ofNat 64 ws.length }

theorem delivered_nil (drained : s.pending = []) : s.delivered [] = s := by
  cases s
  simp_all [State.delivered]

theorem delivered_cons (w : Word) (ws : List Word) (s : State) : s.delivered (w :: ws) =
    State.delivered ws { s with outFifo := s.outFifo ++ [w], pending := ws, outCount := s.outCount + 1 } := by
  simp [State.delivered, BitVec.ofNat_add, BitVec.add_assoc, BitVec.add_comm 1#64]

/-- OUTFIFO and OUT_COUNT have room for m more outputs. -/
def OutputRoom (m : Nat) (s : State) : Prop :=
  s.outFifo.length + m ≤ s.cfg.outDepth ∧ s.outCount.toNat + m < 2 ^ 64

theorem OutputRoom.mono {m n : Nat} (room : OutputRoom m s) (le : n ≤ m) : OutputRoom n s := by
  unfold OutputRoom at *
  omega

theorem OutputRoom.below {m : Nat} (room : OutputRoom (m + 1) s) : s.outCount ≠ countMax := by
  obtain ⟨-, counter⟩ := room
  rw [ne_eq, eq_countMax_iff]
  omega

theorem OutputRoom.after_delivered {m n : Nat} {ws : List Word} (room : OutputRoom (n + m) s) (length : ws.length = n) :
    OutputRoom m (s.delivered ws) := by
  obtain ⟨fifo, counter⟩ := room
  simp only [OutputRoom, State.delivered, List.length_append, BitVec.toNat_add, BitVec.toNat_ofNat]
  omega

theorem takes_transfer {w : Word} {ws : List Word} {m : Nat} (run : s.phase = .run) (head : s.pending = w :: ws)
    (room : OutputRoom (m + 1) s) :
    Takes .engine s { s with outFifo := s.outFifo ++ [w], pending := ws, outCount := s.outCount + 1 } := by
  have enabled : TransferEnabled s := ⟨run, by simp [head], (room.mono (Nat.le_add_left 1 m)).1⟩
  exact takes_engine fun rest => (engineTurn_of_transfer (s := { s with agenda := rest }) enabled).trans <|
    (transferStep_cons (s := { s with agenda := rest }) head).trans (if_neg room.below)

/-- A PENDING that fits OUTFIFO is delivered in one go. -/
theorem runsThrough_transfers (ws : List Word) (run : s.phase = .run) (pending : s.pending = ws)
    (room : OutputRoom ws.length s) :
    RunsThrough (List.replicate ws.length .engine) s (s.delivered ws) := by
  induction ws generalizing s with
  | nil => rw [delivered_nil pending]; exact .nil s
  | cons w ws ih =>
    have room' : OutputRoom ws.length (s.delivered [w]) := (room.mono (Nat.add_comm 1 _).le).after_delivered rfl
    rw [delivered_cons]
    exact .cons run (takes_transfer run pending room) (ih run rfl room')

/-! ### The engine folds the input (40_engine.md R131 to R133) -/

variable {i : Instr} {d d' : Datapath} {w : Word} {ws : List Word} {outs xs : List Int}

/-- The command i runs with the record d, all of its input is written and everything emitted is delivered. -/
structure Folding (i : Instr) (d : Datapath) (s : State) : Prop where
  run : s.phase = .run
  op : decodeOp s.opreg = some i
  dp : s.dp = some d
  drained : s.pending = []
  unfinished : s.fin = false
  ended : s.endFlag = true

/-- The state after a consume step: ws is left in INFIFO, d is the record and PENDING holds the outputs. -/
def State.consumed (ws : List Word) (d : Datapath) (outs : List Int) (s : State) : State :=
  { s with inFifo := ws, dp := some d, pending := outs.map elementWord, inCount := s.inCount + 1 }

/-- The state after a finish step: PENDING holds the last outputs. -/
def State.finished (outs : List Int) (s : State) : State :=
  { s with pending := outs.map elementWord, fin := true }

/-- The state at DONE, n elements and the outputs xs after s. -/
def State.completed (n : Nat) (d : Datapath) (xs : List Int) (s : State) : State :=
  { s with
    phase := .done, inFifo := [], outFifo := s.outFifo ++ xs.map elementWord, pending := [], fin := true
    inCount := s.inCount + BitVec.ofNat 64 n, outCount := s.outCount + BitVec.ofNat 64 xs.length, dp := some d }

theorem completed_of_finished (empty : s.inFifo = []) (dp : s.dp = some d) :
    { (s.finished xs).delivered (xs.map elementWord) with phase := .done } = s.completed 0 d xs := by
  simp [State.finished, State.delivered, State.completed, empty, dp]

theorem completed_of_consumed (n : Nat) (ws : List Word) (d d' : Datapath) (outs xs : List Int) (s : State) :
    ((s.consumed ws d outs).delivered (outs.map elementWord)).completed n d' xs = s.completed (n + 1) d' (outs ++ xs) := by
  simp [State.consumed, State.delivered, State.completed, BitVec.ofNat_add, BitVec.add_assoc, BitVec.add_comm 1#64]

theorem Folding.after_consumed (folding : Folding i d s) (ws : List Word) (d' : Datapath) (outs : List Int) :
    Folding i d' ((s.consumed ws d' outs).delivered (outs.map elementWord)) :=
  ⟨folding.run, folding.op, rfl, rfl, folding.unfinished, folding.ended⟩

theorem Folding.takes_consume (folding : Folding i d s) (head : s.inFifo = w :: ws) (below : s.inCount ≠ countMax)
    (result : consumeOf s.cfg i d (elementValue w) s.inCount.toNat = .ok (d', outs)) :
    Takes .engine s (s.consumed ws d' outs) := by
  have enabled : ConsumeEnabled s := ⟨folding.run, folding.drained, folding.unfinished, by simp [head]⟩
  refine takes_engine fun rest => (engineTurn_of_consume (s := { s with agenda := rest }) enabled).trans ?_
  have answer := (consumeRunning_eq (s := { s with agenda := rest }) folding.op folding.dp _).trans result
  rw [consumeStep_ok (s := { s with agenda := rest }) head below answer, folding.drained]
  rfl

theorem Folding.takes_finish (folding : Folding i d s) (empty : s.inFifo = [])
    (result : finishOf i d s.inCount.toNat = .ok outs) : Takes .engine s (s.finished outs) := by
  have enabled : FinishEnabled s := ⟨folding.run, folding.drained, folding.unfinished, empty, folding.ended⟩
  refine takes_engine fun rest => (engineTurn_of_finish (s := { s with agenda := rest }) enabled).trans ?_
  have answer := (finishRunning_eq (s := { s with agenda := rest }) folding.op folding.dp).trans result
  rw [finishStep_ok answer, folding.drained]
  rfl

theorem takes_complete (enabled : CompleteEnabled s) : Takes .engine s { s with phase := .done } :=
  takes_engine fun rest => engineTurn_of_complete (s := { s with agenda := rest }) enabled

/-- The end of the input: a finish step, a turn for each of its outputs, and a complete step. -/
theorem Folding.runsThrough_end (folding : Folding i d s) (empty : s.inFifo = [])
    (result : finishOf i d s.inCount.toNat = .ok xs) (room : OutputRoom xs.length s) :
    RunsThrough (List.replicate (xs.length + 2) .engine) s (s.completed 0 d xs) := by
  have length : (xs.map elementWord).length = xs.length := List.length_map elementWord
  have transfers := runsThrough_transfers (s := s.finished xs) (xs.map elementWord) folding.run rfl
    (room.mono length.le)
  have complete := takes_complete (s := (s.finished xs).delivered (xs.map elementWord)) ⟨folding.run, rfl, rfl⟩
  rw [completed_of_finished empty folding.dp] at complete
  rw [List.replicate_succ, List.replicate_succ', ← length]
  exact .cons folding.run (folding.takes_finish empty result) (transfers.append (.cons folding.run complete (.nil _)))

/-- The whole input: a turn for each element and each output, one to finish and one to complete. -/
theorem Folding.runsThrough (folding : Folding i d s) (input : s.inFifo = ws)
    (short : s.inCount.toNat + ws.length < 2 ^ 64) (room : OutputRoom xs.length s)
    (result : foldFrom s.cfg i d s.inCount.toNat (ws.map elementValue) = .done xs) :
    ∃ d', RunsThrough (List.replicate (ws.length + xs.length + 2) .engine) s (s.completed ws.length d' xs) := by
  induction ws generalizing s d xs with
  | nil =>
    rw [List.length_nil, Nat.zero_add]
    exact ⟨d, folding.runsThrough_end input (foldFrom_nil_eq_done_iff.mp result) room⟩
  | cons w ws ih =>
    obtain ⟨d₁, outs, xs, consumed, onward, rfl⟩ := foldFrom_cons_eq_done result
    have length : (outs.map elementWord).length = outs.length := List.length_map elementWord
    rw [List.length_cons] at short
    rw [List.length_append] at room
    have below : s.inCount ≠ countMax := by
      rw [ne_eq, eq_countMax_iff]
      omega
    have count := toNat_add_one below
    rw [← count] at onward
    have transfers := runsThrough_transfers (s := s.consumed ws d₁ outs) (outs.map elementWord) folding.run rfl
      (room.mono (length.trans_le (Nat.le_add_right _ _)))
    obtain ⟨d', runs⟩ := ih (folding.after_consumed ws d₁ outs) rfl (by simp only [State.delivered, State.consumed]; omega)
      (room.after_delivered (s := s.consumed ws d₁ outs) length) onward
    rw [completed_of_consumed] at runs
    have turns : List.replicate ((w :: ws).length + (outs ++ xs).length + 2) Turn.engine = .engine ::
        (List.replicate (outs.map elementWord).length .engine ++ List.replicate (ws.length + xs.length + 2) .engine) := by
      rw [← List.replicate_add, ← List.replicate_succ, length, List.length_append, List.length_cons]
      congr 1
      omega
    rw [turns]
    exact ⟨d', .cons folding.run (folding.takes_consume input below consumed) (transfers.append runs)⟩

end

/-- The state after the start of the command i with the record d (40_engine.md R124). -/
def State.started (i : Instr) (d : Datapath) (s : State) : State :=
  { s with
    phase := .run, opreg := opcode i, lenS := s.len, inFifo := [], outFifo := [], pending := [], endFlag := false
    fin := false, inCount := 0, outCount := 0, errcode := none, errIndex := 0, dp := some d }

theorem takes_command {i : Instr} {s : State} {d : Datapath} (startable : Startable s) (record : initOf i s.len = some d) :
    Takes (.access (cmdAccess i)) s (s.started i d) :=
  takes_access fun rest => (hostAccess_write_cmd (encode i) _).trans <|
    (writeCmd_encode i _).trans (exec_of_startable (s := { s with agenda := rest }) startable record)

/-- The agenda of the host that writes its input ws and ends it, and of the engine that then folds it to m outputs. -/
def wholeCommand (ws : List Word) (m : Nat) : List Turn :=
  ws.map (fun w => .access (.write64 0x18 w)) ++ .access endAccess :: List.replicate (ws.length + m + 2) .engine

theorem length_wholeCommand (ws : List Word) (m : Nat) :
    (wholeCommand ws m).length + 1 = ws.length + 2 + (ws.length + m + 2) := by
  simp only [wholeCommand, List.length_append, List.length_map, List.length_cons, List.length_replicate]
  omega

/-- From its start to DONE the command stays in RUN. -/
theorem runsThrough_wholeCommand {i : Instr} {s : State} {d : Datapath} {ws : List Word} {xs : List Int}
    (inRoom : ws.length ≤ s.cfg.inDepth) (outRoom : xs.length ≤ s.cfg.outDepth) (short : ws.length < 2 ^ 64)
    (outShort : xs.length < 2 ^ 64) (result : foldFrom s.cfg i d 0 (ws.map elementValue) = .done xs) :
    ∃ d', RunsThrough (wholeCommand ws xs.length) (s.started i d)
      (State.completed ws.length d' xs { s.started i d with inFifo := ws, endFlag := true }) := by
  have folding : Folding i d { s.started i d with inFifo := ws, endFlag := true } :=
    ⟨rfl, decodeOp_opcode i, rfl, rfl, rfl, rfl⟩
  obtain ⟨d', folds⟩ := folding.runsThrough rfl (by simpa [State.started] using short)
    (by simpa [OutputRoom, State.started] using ⟨outRoom, outShort⟩) result
  have input := runsThrough_input (s := s.started i d) ws rfl rfl (by simpa [State.started] using inRoom)
  exact ⟨d', input.append (.cons rfl (takes_inEnd rfl rfl) folds)⟩

/-- Settles O38: the command starts, the host writes its input, and the engine folds it. -/
theorem commandReachesDoneInNPlusMPlusTwoEngineSteps : Obligations.CommandReachesDoneInNPlusMPlusTwoEngineSteps := by
  intro i s ws xs startable inRoom outRoom short outShort agenda result
  have command : i ≠ .clr := by rintro rfl; cases result
  obtain ⟨d, record⟩ := initOf_eq_some command s.len
  simp only [commandResult, record] at result
  obtain ⟨d', runs⟩ := runsThrough_wholeCommand inRoom outRoom short outShort result
  have starts : step s = .next { s.started i d with agenda := wholeCommand ws xs.length } := by
    have first := takes_command startable record (wholeCommand ws xs.length)
    rwa [wholeCommand, ← agenda] at first
  rw [← length_wholeCommand]
  refine ⟨⟨d', ?done⟩, fun k t positive before h => ?running⟩
  case done =>
    rw [runSteps_succ_of_step starts, runs.runSteps_eq]
    simp [State.completed, State.started]
  case running =>
    obtain ⟨k, rfl⟩ := Nat.exists_eq_succ_of_ne_zero (Nat.ne_of_gt positive)
    rw [runSteps_succ_of_step starts] at h
    exact runs.phase_of_lt (Nat.lt_of_succ_lt_succ before) h

end Sys2Proof.Machine
